-- ==== Sys2Proof/Word.lean ====
section
/-! DEFINITION. The widths of the block's line groups and the bus cycle they sample (spec/00_scope.md R5,
spec/30_encoding.md R80, R81). -/

namespace Sys2Proof

/-- One byte: the 8 data lines (R5, `DATA_W = 8`), and one element of `IMAGE` (R21). -/
abbrev Byte := BitVec 8

/-- One sample of the 16 address lines (R5, `ADDR_W = 16`). -/
abbrev Address := BitVec 16

/-- The 18-bit bus-cycle word `W = {halted, is_write, address}` (R81). -/
abbrev Word := BitVec 18

/-- A bus cycle has exactly three fields (R80). `isWrite` is true when the console writes, `halted` while the
halt line is asserted; both are logical values, no electrical level (D18). -/
structure BusCycle where
  address : Address
  isWrite : Bool
  halted  : Bool
  deriving DecidableEq, Repr, Inhabited

end Sys2Proof
end

