-- ==== Sys2Proof/Config.lean ====
section
/-! DEFINITION. What the spec leaves to the platform: the schemes, the parameters of spec/00_scope.md R7, and the
free values, opaque constants of which nothing can be proved. -/

namespace Sys2Proof

/-- The bank schemes (R6, R22). Named values only, no numeric encoding (R91, D15). -/
inductive Scheme where
  | none | f8 | f6 | f4 | fe
  deriving DecidableEq, Repr, Inhabited

/-- The direction on which a hotspot triggers (R7, R136). -/
inductive TriggerDir where
  | either | readOnly | writeOnly
  deriving DecidableEq, Repr, Inhabited

/-- One entry of `HIST`: the pair `(address, is_write)` of a consumed bus cycle (R27). -/
abbrev HistEntry := Address × Bool

/-- The persisted input artifact: the raw cartridge bytes and the optional scheme tag (R110, R213, D26). A tag
outside the five names is not representable (D24). -/
structure Artifact where
  bytes : List Byte
  tag   : Option Scheme
  deriving DecidableEq, Repr, Inhabited

/-- What the outside world does to the block: the console presents a bus cycle (R9, R245), or power is removed and
applied again, the only reset there is (R230). -/
inductive Event where
  | cycle (c : BusCycle)
  | powerCycle
  deriving DecidableEq, Repr, Inhabited

/-- The parameters the document leaves open (R7), all but `FE_SELECT`, which is a function (`Config.feSelect`).
The constraint `RESET_BANK(s) < bank_count(s)` is carried by the types; `RESET_BANK(None) = 0` is forced and has
no field. DESIGN CHOICE (log 2): the parameters stand in the machine's state, where no rule writes them, so that a
statement about every state holds for every value of them. -/
structure Params where
  windowMask  : Address
  windowMatch : Address
  triggerF8   : TriggerDir
  triggerF6   : TriggerDir
  triggerF4   : TriggerDir
  resetBankF8 : Fin 2
  resetBankF6 : Fin 4
  resetBankF4 : Fin 8
  resetBankFE : Fin 8
  feDepth     : Nat
  deriving DecidableEq, Repr

/-- The constraints of R7 that the types do not carry: `WINDOW_MATCH & ~WINDOW_MASK = 0` and `FE_DEPTH >= 1`
(the premises `WindowWellFormed` and `FeDepthPositive` of R246). -/
def Params.wf (p : Params) : Bool :=
  (p.windowMatch &&& ~~~p.windowMask) == 0 && decide (1 ≤ p.feDepth)

namespace Config

/-- `RESET_BANK(F8)`, OPEN (R7, D6). DESIGN CHOICE: a free value (log 3). -/
opaque resetBankF8 : Fin 2

/-- `RESET_BANK(F6)`, OPEN (R7, D6). DESIGN CHOICE: a free value (log 3). -/
opaque resetBankF6 : Fin 4

/-- `RESET_BANK(F4)`, OPEN (R7, D6). DESIGN CHOICE: a free value (log 3). -/
opaque resetBankF4 : Fin 8

/-- `RESET_BANK(FE)`, OPEN (R7, D6). DESIGN CHOICE: a free value (log 3). -/
opaque resetBankFE : Fin 8

/-- `FE_DEPTH - 1`, OPEN (R7, D7: `FE_DEPTH` is at least 1). DESIGN CHOICE: a free value (log 4). -/
opaque feDepthLessOne : Nat

/-- `FE_SELECT`, an uninterpreted function of the history, newest entry first (R7, R135, D7).
DESIGN CHOICE: a free value (log 4). -/
opaque feSelect : List HistEntry → Option Nat

/-- The content of `DOUT` when power is applied: unspecified (R32, D17). DESIGN CHOICE: a free value (log 5). -/
opaque doutAtPowerOn : Nat → Byte

/-- The content of `BANK` before `load` has succeeded: no defined value (R32, R206). DESIGN CHOICE: a free value
(log 6). -/
opaque bankAtPowerOn : Nat → Nat

/-- The content of `SCHEME` before `load` has succeeded: no defined value (R32, R206). DESIGN CHOICE: a free value
(log 6). -/
opaque schemeAtPowerOn : Nat → Scheme

/-- What the environment does after the events that State lists: the stream of R9, a free input. DESIGN CHOICE
(log 9). -/
opaque environment : Nat → Event

/-- The parameters of the device of State.reset: the spec's defaults for the window and the trigger directions
(R7), the free values for the rest. -/
def params : Params where
  windowMask  := 0xE000
  windowMatch := 0x0000
  triggerF8   := .either
  triggerF6   := .either
  triggerF4   := .either
  resetBankF8 := resetBankF8
  resetBankF6 := resetBankF6
  resetBankF4 := resetBankF4
  resetBankFE := resetBankFE
  feDepth     := feDepthLessOne + 1

end Config
end Sys2Proof
end

