-- ==== Sys2Proof/Syntax.lean ====
section
/-! DEFINITION. The operations of one iteration: one constructor for each of the 28 rows of spec/opcode_table.json
(spec/30_encoding.md R83 to R86). A constructor's operands are the bits of the word that its row leaves free. -/

namespace Sys2Proof

/-- The four stages of an iteration, in their fixed order (R83). -/
inductive Stage where
  | gate | bank | data | rel
  deriving DecidableEq, Repr

/-- The Halt Synchronizer's states (R24, R91). -/
inductive Phase where
  | idle | armed | running
  deriving DecidableEq, Repr

/-- The values of `FAULT` (R25, R91). `BusContention` is not one of them (R204). -/
inductive FaultKind where
  | noFault | invalidImageSize | ambiguousScheme | outOfRange
  deriving DecidableEq, Repr

/-- The operations (R84, R85, R86). Where a row fixes no bit, the operand is the whole bus cycle. -/
inductive Instr where
  -- stage GATE (R84)
  | gateStopped (c : BusCycle)
  | gateHold (isWrite : Bool) (address : Address)
  | gateArm (isWrite : Bool) (address : Address)
  | gateAdvance (c : BusCycle)
  | gatePass (c : BusCycle)
  -- stage BANK (R85)
  | bankNone (c : BusCycle)
  | bankF80 (halted isWrite : Bool)
  | bankF81 (halted isWrite : Bool)
  | bankF8Nop (c : BusCycle)
  | bankF60 (halted isWrite : Bool)
  | bankF61 (halted isWrite : Bool)
  | bankF62 (halted isWrite : Bool)
  | bankF63 (halted isWrite : Bool)
  | bankF6Nop (c : BusCycle)
  | bankF40 (halted isWrite : Bool)
  | bankF41 (halted isWrite : Bool)
  | bankF42 (halted isWrite : Bool)
  | bankF43 (halted isWrite : Bool)
  | bankF44 (halted isWrite : Bool)
  | bankF45 (halted isWrite : Bool)
  | bankF46 (halted isWrite : Bool)
  | bankF47 (halted isWrite : Bool)
  | bankF4Nop (c : BusCycle)
  | bankFeObserve (c : BusCycle)
  -- stage DATA (R86)
  | dataWrite (halted : Bool) (address : Address)
  | dataRead (halted : Bool) (address : Address)
  | dataOutside (c : BusCycle)
  -- stage REL (R86)
  | rel (c : BusCycle)
  deriving DecidableEq, Repr

/-- What selects among the decode tables and sets their masks (R88): `FAULT` and `PHASE` in stage GATE, `SCHEME`
in stage BANK, and the parameters. -/
structure DecodeContext where
  fault  : FaultKind
  phase  : Phase
  scheme : Scheme
  params : Params
  deriving DecidableEq, Repr

end Sys2Proof
end

