-- ==== Sys2Proof/Machine/Operands.lean ====
section
/-! DEFINITION. What is computed from a bus cycle, a scheme and the parameters: sizes (R6, R8), the window test
(R60), the hotspot predicate and its rows' masks (R92, R136), the lookup offset (R62, R87), the reset bank (R7). -/

namespace Sys2Proof.Machine

/-- `bank_count(s)` (R6; `bank_count(FE) = 8` by D8). -/
def bankCount : Scheme → Nat
  | .none => 1
  | .f8 => 2
  | .f6 => 4
  | .f4 => 8
  | .fe => 8

/-- `bank_size(s, LEN)` (R8, D3). -/
def bankSize (s : Scheme) (len : Nat) : Nat :=
  match s with
  | .none => min len 4096
  | .f8 | .f6 | .f4 | .fe => 4096

/-- `offset_mask(s, LEN) = bank_size(s, LEN) - 1` (R8, D4). -/
def offsetMask (s : Scheme) (len : Nat) : Address :=
  BitVec.ofNat 16 (bankSize s len - 1)

/-- The lookup offset `address & offset_mask`: a 16-bit AND, zero-extended, not scaled (R67(a), R87(a)). -/
def lookupOffset (s : Scheme) (len : Nat) (a : Address) : Nat :=
  (a &&& offsetMask s len).toNat

/-- `InWindow(a)`: `(a & WINDOW_MASK) = WINDOW_MATCH` (R10, R60). -/
def inWindow (p : Params) (a : Address) : Bool :=
  (a &&& p.windowMask) == p.windowMatch

/-- `DirOk(t, w)` (R136). -/
def dirOk : TriggerDir → Bool → Bool
  | .either, _ => true
  | .readOnly, w => !w
  | .writeOnly, w => w

/-- `TRIGGER_DIR(s)` (R7); `None` and `FE` have no hotspot address (R61), so theirs is never asked for. -/
def triggerDir (p : Params) : Scheme → TriggerDir
  | .f8 => p.triggerF8
  | .f6 => p.triggerF6
  | .f4 => p.triggerF4
  | .none | .fe => .either

/-- `base(s)` (R136), for the schemes that have hotspot addresses (R61). -/
def hotspotBase : Scheme → Option Nat
  | .f8 => some 0x1FF8
  | .f6 => some 0x1FF6
  | .f4 => some 0x1FF4
  | .none | .fe => Option.none

/-- `Qualifies(s, c)` (R136); for `None` the predicate never holds (R131), and `FE` has no hotspot address (R61). -/
def qualifies (p : Params) (s : Scheme) (c : BusCycle) : Bool :=
  match hotspotBase s with
  | Option.none => false
  | some base =>
    decide (base ≤ c.address.toNat) && decide (c.address.toNat ≤ base + bankCount s - 1)
      && dirOk (triggerDir p s) c.isWrite

/-- The bank that a qualifying cycle selects: `c.address - base(s)` (R67(c), R87(b)). -/
def hotspotBank (s : Scheme) (c : BusCycle) : Nat :=
  c.address.toNat - (hotspotBase s).getD 0

/-- The mask of a hotspot row under a trigger direction (R92). -/
def hotspotMask : TriggerDir → Word
  | .either => 0x0FFFF
  | .readOnly | .writeOnly => 0x1FFFF

/-- The match of the hotspot row of address `a` under a trigger direction (R92). -/
def hotspotMatch (t : TriggerDir) (a : Address) : Word :=
  match t with
  | .either | .readOnly => a.setWidth 18
  | .writeOnly => 0x10000 ||| a.setWidth 18

/-- `RESET_BANK(s)` (R7); `RESET_BANK(None) = 0` is forced by the bank count. -/
def resetBank (p : Params) : Scheme → Nat
  | .none => 0
  | .f8 => p.resetBankF8
  | .f6 => p.resetBankF6
  | .f4 => p.resetBankF4
  | .fe => p.resetBankFE

/-- `HIST` after a cycle is observed: `take(FE_DEPTH, (c.address, c.is_write) :: HIST)` (R135). -/
def pushHistory (depth : Nat) (c : BusCycle) (h : List HistEntry) : List HistEntry :=
  ((c.address, c.isWrite) :: h).take depth

/-- `SIZES`: the supported image lengths (R6, R111). -/
def supportedSize (n : Nat) : Bool :=
  n == 2048 || n == 4096 || n == 8192 || n == 16384 || n == 32768

/-- Size inference, used only when no tag is present (R113, D21): `none` where the length decides no scheme. -/
def inferScheme (n : Nat) : Option Scheme :=
  if n == 2048 || n == 4096 then some .none
  else if n == 8192 then some .f8
  else if n == 16384 then some .f6
  else Option.none

end Sys2Proof.Machine
end

