-- ==== Sys2Proof/WellFormed.lean ====
section
/-! DEFINITION. When an operation's row holds: the state condition of the row and the bits of the word that the row
constrains beyond the ones its constructor already fixes (spec/30_encoding.md R84, R85, R86; R136 for hotspots).
It is written from the rows' conditions and R136's ranges, Decode.lean from their masks. -/

namespace Sys2Proof

open Sys2Proof.Machine (dirOk qualifies inWindow)

/-- A row of a hotspot of scheme `s`: `SCHEME` is `s` and the direction is one the scheme triggers on. -/
def hotspotRowHolds (x : DecodeContext) (s : Scheme) (t : TriggerDir) (isWrite : Bool) : Bool :=
  x.scheme == s && dirOk t isWrite

/-- The default row of scheme `s`: `SCHEME` is `s` and no row above it matches (R85, R137). -/
def nopRowHolds (x : DecodeContext) (s : Scheme) (c : BusCycle) : Bool :=
  x.scheme == s && !qualifies x.params s c

/-- The row of `i` holds in the context `x`: its operands are ones the row's encoding admits, and the row's
condition on the state holds. -/
def Instr.wf (x : DecodeContext) : Instr → Bool
  | .gateStopped _ => x.fault != .noFault
  | .gateHold _ _ => x.fault == .noFault && x.phase == .idle
  | .gateArm _ _ => x.fault == .noFault && x.phase == .idle
  | .gateAdvance _ => x.fault == .noFault && x.phase == .armed
  | .gatePass _ => x.fault == .noFault && x.phase == .running
  | .bankNone _ => x.scheme == .none
  | .bankF80 _ w => hotspotRowHolds x .f8 x.params.triggerF8 w
  | .bankF81 _ w => hotspotRowHolds x .f8 x.params.triggerF8 w
  | .bankF8Nop c => nopRowHolds x .f8 c
  | .bankF60 _ w => hotspotRowHolds x .f6 x.params.triggerF6 w
  | .bankF61 _ w => hotspotRowHolds x .f6 x.params.triggerF6 w
  | .bankF62 _ w => hotspotRowHolds x .f6 x.params.triggerF6 w
  | .bankF63 _ w => hotspotRowHolds x .f6 x.params.triggerF6 w
  | .bankF6Nop c => nopRowHolds x .f6 c
  | .bankF40 _ w => hotspotRowHolds x .f4 x.params.triggerF4 w
  | .bankF41 _ w => hotspotRowHolds x .f4 x.params.triggerF4 w
  | .bankF42 _ w => hotspotRowHolds x .f4 x.params.triggerF4 w
  | .bankF43 _ w => hotspotRowHolds x .f4 x.params.triggerF4 w
  | .bankF44 _ w => hotspotRowHolds x .f4 x.params.triggerF4 w
  | .bankF45 _ w => hotspotRowHolds x .f4 x.params.triggerF4 w
  | .bankF46 _ w => hotspotRowHolds x .f4 x.params.triggerF4 w
  | .bankF47 _ w => hotspotRowHolds x .f4 x.params.triggerF4 w
  | .bankF4Nop c => nopRowHolds x .f4 c
  | .bankFeObserve _ => x.scheme == .fe
  | .dataWrite _ _ => true
  | .dataRead _ a => inWindow x.params a
  | .dataOutside c => !c.isWrite && !inWindow x.params c.address
  | .rel _ => true

end Sys2Proof
end

