-- ==== Sys2Proof/Decode.lean ====
section
/-! DEFINITION. The bus-cycle word and its decode, stage by stage, from the mask and match of the rows
(spec/30_encoding.md R81 to R88, R92, R93), and the encoder after it. Every 18-bit word is legal in every state
(R89); the one thing refused is a number that is no 18-bit word. -/

namespace Sys2Proof

open Sys2Proof.Machine (hotspotMask hotspotMatch)

/-- `W = {halted, is_write, address}` (R81). -/
def BusCycle.word (c : BusCycle) : Word :=
  BitVec.ofBool c.halted ++ BitVec.ofBool c.isWrite ++ c.address

/-- Plain extraction: `halted = W[17]`, `is_write = W[16]`, `address = W[15:0]` (R82). -/
def BusCycle.ofWord (w : Word) : BusCycle where
  address := w.extractLsb' 0 16
  isWrite := w.getLsbD 16
  halted  := w.getLsbD 17

/-- A row matches a word: `W & mask = match` (R84, R85, R86). -/
def rowHits (mask value w : Word) : Bool :=
  (w &&& mask) == value

/-- The row of hotspot address `a` matches, under the trigger direction `t` (R85, R92). -/
def hotspotHits (t : TriggerDir) (a : Address) (w : Word) : Bool :=
  rowHits (hotspotMask t) (hotspotMatch t a) w

/-- Stage GATE; rows are tried from the top (R84). -/
def decodeGate (x : DecodeContext) (w : Word) : Instr :=
  let c := BusCycle.ofWord w
  if x.fault != .noFault then .gateStopped c
  else match x.phase with
    | .idle =>
      if rowHits 0x20000 0x20000 w then .gateHold c.isWrite c.address
      else .gateArm c.isWrite c.address
    | .armed => .gateAdvance c
    | .running => .gatePass c

/-- The rows of scheme F8 (R85). -/
def decodeF8 (t : TriggerDir) (w : Word) : Instr :=
  let c := BusCycle.ofWord w
  if hotspotHits t 0x1FF8 w then .bankF80 c.halted c.isWrite
  else if hotspotHits t 0x1FF9 w then .bankF81 c.halted c.isWrite
  else .bankF8Nop c

/-- The rows of scheme F6 (R85). -/
def decodeF6 (t : TriggerDir) (w : Word) : Instr :=
  let c := BusCycle.ofWord w
  if hotspotHits t 0x1FF6 w then .bankF60 c.halted c.isWrite
  else if hotspotHits t 0x1FF7 w then .bankF61 c.halted c.isWrite
  else if hotspotHits t 0x1FF8 w then .bankF62 c.halted c.isWrite
  else if hotspotHits t 0x1FF9 w then .bankF63 c.halted c.isWrite
  else .bankF6Nop c

/-- The rows of scheme F4 (R85). -/
def decodeF4 (t : TriggerDir) (w : Word) : Instr :=
  let c := BusCycle.ofWord w
  if hotspotHits t 0x1FF4 w then .bankF40 c.halted c.isWrite
  else if hotspotHits t 0x1FF5 w then .bankF41 c.halted c.isWrite
  else if hotspotHits t 0x1FF6 w then .bankF42 c.halted c.isWrite
  else if hotspotHits t 0x1FF7 w then .bankF43 c.halted c.isWrite
  else if hotspotHits t 0x1FF8 w then .bankF44 c.halted c.isWrite
  else if hotspotHits t 0x1FF9 w then .bankF45 c.halted c.isWrite
  else if hotspotHits t 0x1FFA w then .bankF46 c.halted c.isWrite
  else if hotspotHits t 0x1FFB w then .bankF47 c.halted c.isWrite
  else .bankF4Nop c

/-- Stage BANK: `SCHEME` selects the table (R85, R88). -/
def decodeBank (x : DecodeContext) (w : Word) : Instr :=
  match x.scheme with
  | .none => .bankNone (BusCycle.ofWord w)
  | .f8 => decodeF8 x.params.triggerF8 w
  | .f6 => decodeF6 x.params.triggerF6 w
  | .f4 => decodeF4 x.params.triggerF4 w
  | .fe => .bankFeObserve (BusCycle.ofWord w)

/-- Stage DATA; rows are tried from the top, with the window's mask and match (R86, R93). -/
def decodeData (x : DecodeContext) (w : Word) : Instr :=
  let c := BusCycle.ofWord w
  if rowHits 0x10000 0x10000 w then .dataWrite c.halted c.address
  else if rowHits (0x10000 ||| x.params.windowMask.setWidth 18) (x.params.windowMatch.setWidth 18) w then
    .dataRead c.halted c.address
  else .dataOutside c

/-- Stage REL has one operation (R86). -/
def decodeRel (w : Word) : Instr :=
  .rel (BusCycle.ofWord w)

/-- The operation that a stage's table selects for a word (R83). -/
def decodeStage (st : Stage) (x : DecodeContext) (w : Word) : Instr :=
  match st with
  | .gate => decodeGate x w
  | .bank => decodeBank x w
  | .data => decodeData x w
  | .rel => decodeRel w

/-- After `GATE_STOPPED` and `GATE_HOLD` stages BANK and DATA are skipped (R83, R84). -/
def Instr.goesOn : Instr → Bool
  | .gateStopped _ | .gateHold _ _ => false
  | .gateArm _ _ | .gateAdvance _ | .gatePass _
  | .bankNone _ | .bankF80 _ _ | .bankF81 _ _ | .bankF8Nop _
  | .bankF60 _ _ | .bankF61 _ _ | .bankF62 _ _ | .bankF63 _ _ | .bankF6Nop _
  | .bankF40 _ _ | .bankF41 _ _ | .bankF42 _ _ | .bankF43 _ _ | .bankF44 _ _ | .bankF45 _ _ | .bankF46 _ _
  | .bankF47 _ _ | .bankF4Nop _ | .bankFeObserve _
  | .dataWrite _ _ | .dataRead _ _ | .dataOutside _ | .rel _ => true

/-- The operations of one iteration, in order: the same word decoded once in each stage; stage REL always runs
(R83). Stage BANK's and DATA's tables are chosen by `SCHEME` and the parameters, which no operation writes (R88). -/
def decodeIteration (x : DecodeContext) (w : Word) : List Instr :=
  let g := decodeGate x w
  if g.goesOn then [g, decodeBank x w, decodeData x w, decodeRel w] else [g, decodeRel w]

/-! ## The encoder -/

/-- The stage whose table holds the operation's row (R84, R85, R86). -/
def Instr.stage : Instr → Stage
  | .gateStopped _ | .gateHold _ _ | .gateArm _ _ | .gateAdvance _ | .gatePass _ => .gate
  | .bankNone _ | .bankF80 _ _ | .bankF81 _ _ | .bankF8Nop _
  | .bankF60 _ _ | .bankF61 _ _ | .bankF62 _ _ | .bankF63 _ _ | .bankF6Nop _
  | .bankF40 _ _ | .bankF41 _ _ | .bankF42 _ _ | .bankF43 _ _ | .bankF44 _ _ | .bankF45 _ _ | .bankF46 _ _
  | .bankF47 _ _ | .bankF4Nop _ | .bankFeObserve _ => .bank
  | .dataWrite _ _ | .dataRead _ _ | .dataOutside _ => .data
  | .rel _ => .rel

/-- The bus cycle an operation's row and operands stand for (the match columns of R84, R85, R86). -/
def Instr.cycle : Instr → BusCycle
  | .gateStopped c | .gateAdvance c | .gatePass c => c
  | .gateHold w a => { address := a, isWrite := w, halted := true }
  | .gateArm w a => { address := a, isWrite := w, halted := false }
  | .bankNone c | .bankF8Nop c | .bankF6Nop c | .bankF4Nop c | .bankFeObserve c => c
  | .bankF80 h w => { address := 0x1FF8, isWrite := w, halted := h }
  | .bankF81 h w => { address := 0x1FF9, isWrite := w, halted := h }
  | .bankF60 h w => { address := 0x1FF6, isWrite := w, halted := h }
  | .bankF61 h w => { address := 0x1FF7, isWrite := w, halted := h }
  | .bankF62 h w => { address := 0x1FF8, isWrite := w, halted := h }
  | .bankF63 h w => { address := 0x1FF9, isWrite := w, halted := h }
  | .bankF40 h w => { address := 0x1FF4, isWrite := w, halted := h }
  | .bankF41 h w => { address := 0x1FF5, isWrite := w, halted := h }
  | .bankF42 h w => { address := 0x1FF6, isWrite := w, halted := h }
  | .bankF43 h w => { address := 0x1FF7, isWrite := w, halted := h }
  | .bankF44 h w => { address := 0x1FF8, isWrite := w, halted := h }
  | .bankF45 h w => { address := 0x1FF9, isWrite := w, halted := h }
  | .bankF46 h w => { address := 0x1FFA, isWrite := w, halted := h }
  | .bankF47 h w => { address := 0x1FFB, isWrite := w, halted := h }
  | .dataWrite h a => { address := a, isWrite := true, halted := h }
  | .dataRead h a => { address := a, isWrite := false, halted := h }
  | .dataOutside c | .rel c => c

/-- The word of an operation. -/
def encode (i : Instr) : Word :=
  i.cycle.word

/-! ## The opcode table's numbers -/

/-- Why a number is refused as a bus-cycle word. -/
inductive DecodeError where
  /-- The number has a bit above bit 17: a bus-cycle word has 18 bits and one format (R81). -/
  | widerThanBusWord
  deriving DecidableEq, Repr

/-- The bus-cycle word a number stands for (R81): bit `i` of the number is `W[i]`. -/
def wordOfNat (w : Nat) : Except DecodeError Word :=
  if w < 2 ^ 18 then .ok (BitVec.ofNat 18 w) else .error .widerThanBusWord

/-- DESIGN CHOICE (log 11): the scheme in whose table a word alone is read. A hotspot address is read under the
first scheme of R61's table that has it, any other address under `None`. -/
def tableScheme (a : Address) : Scheme :=
  if a == 0x1FF8 || a == 0x1FF9 then .f8
  else if a == 0x1FF6 || a == 0x1FF7 then .f6
  else if a == 0x1FF4 || a == 0x1FF5 || a == 0x1FFA || a == 0x1FFB then .f4
  else .none

/-- DESIGN CHOICE (log 11): the context in which a word alone is read, that of the first iteration of a block that
has loaded an image: `FAULT = NoFault`, `PHASE = Idle`, the default window and trigger directions. -/
def tableContext (w : Word) : DecodeContext where
  fault  := .noFault
  phase  := .idle
  scheme := tableScheme (BusCycle.ofWord w).address
  params := Config.params

/-- DESIGN CHOICE (log 11): of the operations the first iteration runs on a word, the one its own bits select: the
gate's if it goes no further, else the hotspot's if the address is one, else stage DATA's. -/
def tableOperation (w : Word) : Instr :=
  let x := tableContext w
  let g := decodeGate x w
  if !g.goesOn then g
  else if x.scheme == .none then decodeData x w
  else decodeBank x w

/-- The operation this decoder reads from a row's bits alone. -/
def decodeTableWord (_nbits w : Nat) : Option Instr :=
  match wordOfNat w with
  | .ok v => some (tableOperation v)
  | .error _ => Option.none

end Sys2Proof
end

