-- ==== Sys2Proof/Machine/State.lean ====
section
/-! DEFINITION. The state of the block (spec/10_state.md R20), the reasons a step can stop, and the state right
after power is applied (spec/70_reset_and_hazards.md R231). Plain data. -/

namespace Sys2Proof.Machine

/-- `IMAGE` as the list of its non-zero bytes by position (R21), positions strictly rising. DESIGN CHOICE (log 8):
a position below `LEN` that is not listed holds the byte 0x00. -/
abbrev Memory := List Host.Cell

/-- What a position not listed reads as (log 8). No rule reads a position at or above `LEN` (R114). -/
def Memory.unlisted : Byte := 0x00

/-- The canonical form from position `lo` on: positions strictly rising, no entry equal to what an unlisted
position reads as. -/
def Memory.wfFrom : Nat → Memory → Bool
  | _, [] => true
  | lo, (a, b) :: m => decide (lo ≤ a) && b != Memory.unlisted && Memory.wfFrom (a + 1) m

/-- The canonical form of an image. -/
def Memory.wf (m : Memory) : Bool :=
  Memory.wfFrom 0 m

/-- The output of an iteration (R10, R160): no data line driven during the cycle, or all 8 driven with a byte and
then released. -/
inductive Output where
  | hiZ
  | drive (b : Byte)
  deriving DecidableEq, Repr

/-- Why a step stops with a fault. The block's own fault conditions are values of its register `FAULT` and are
next states, not this (R206). -/
inductive Fault where
  /-- "Bus driven outside mapped window" (R200, R204). RAISED BY NOTHING: "Must be impossible by construction".
  It stands here because it is the fourth row of the spec's table of conditions. Safe: it is never answered. -/
  | busContention
  deriving DecidableEq, Repr

/-- Why a step is refused. -/
inductive Refusal where
  /-- An operation without a meaning yet, by its mnemonic. Raised by an arm of exec only; no arm raises it. Safe. -/
  | notModelled (mnemonic : String)
  deriving DecidableEq, Repr

/-- The state. The first group is the configuration and the mutable registers of R20; the second the parameters of
R7 (log 2); the third what the environment holds (R213, R233; logs 9 and 10); the last the model's own output
(R160; log 15). -/
structure State where
  /-- `IMAGE` (R21): written by `load` alone. -/
  image  : Memory
  /-- `LEN` (R21). -/
  len    : Nat
  /-- `SCHEME` (R22). -/
  scheme : Scheme
  /-- `BANK` (R23): a natural number of no fixed width (D16). -/
  bank   : Nat
  /-- `PHASE` (R24). -/
  phase  : Phase
  /-- `FAULT` (R25): sticky. -/
  fault  : FaultKind
  /-- `DOUT` (R26): the byte of the output latch. -/
  dout   : Byte
  /-- `OE` (R26): the output enable of the 8 data lines. -/
  oe     : Bool
  /-- `HIST` (R27): newest entry first. -/
  hist   : List HistEntry
  /-- The parameters of R7; no rule writes them. -/
  params : Params
  /-- The persisted input artifact: what the loader supplied; it survives a power cycle (R213, D26). -/
  persisted : Artifact
  /-- Whether `load` has run since power was applied (R233). -/
  loaded : Bool
  /-- The events still to come; the model's own field (log 9). -/
  input  : List Event
  /-- How many events have been consumed: the counter of the free values; the model's own field (log 9). -/
  events : Nat
  /-- The output of the latest iteration (R160); the model's own field (log 15). -/
  out    : Output
  deriving DecidableEq, Repr

/-- Power is applied (R231, first line; R233(1)): `PHASE = Idle`, `FAULT = NoFault`, `OE = 0`, `HIST` empty, `DOUT`
unspecified, and the configuration not yet established. Nothing survives but the artifact (R213) and what is no
state of the block, the parameters and the environment. -/
def State.powerOn (p : Params) (a : Artifact) (input : List Event) (n : Nat) : State where
  image  := []
  len    := 0
  scheme := Config.schemeAtPowerOn n
  bank   := Config.bankAtPowerOn n
  phase  := .idle
  fault  := .noFault
  dout   := Config.doutAtPowerOn n
  oe     := false
  hist   := []
  params := p
  persisted := a
  loaded := false
  input  := input
  events := n
  out    := .hiZ

/-- The machine right after power is applied, with nothing placed: no byte and no tag supplied by a loader, no
event listed (log 10). -/
def State.reset : State :=
  State.powerOn Config.params { bytes := [], tag := Option.none } [] 0

end Sys2Proof.Machine
end

