-- ==== Sys2Proof/Machine/Flags.lean ====
section
/-! DEFINITION. The two one-bit status items and what the data lines carry (spec/10_state.md R26, R29). The block
has no condition codes. -/

namespace Sys2Proof.Machine

/-- The predicate `FAULT != NoFault` (R25, R29). -/
def stopped (s : State) : Bool :=
  s.fault != .noFault

/-- What the 8 data lines carry: `DOUT` while `OE = 1`, nothing while `OE = 0` (R26). Data line `i` carries bit `i`
(D18). -/
def dataLines (s : State) : Option Byte :=
  if s.oe then some s.dout else none

/-- Whether `load` has run and established the configuration (R110, R206): after a failed load nothing is. -/
def configured (s : State) : Bool :=
  s.loaded && s.fault != .invalidImageSize && s.fault != .ambiguousScheme

end Sys2Proof.Machine
end

