-- ==== Sys2Proof/Machine/Ops.lean ====
section
/-! DEFINITION. The named operations: the image, `byte_at`, `load`, fault entry, the reset of a power cycle, and
the writes of the registers. There is no store (spec/20_memory.md R57), so the image has no write. -/

namespace Sys2Proof.Machine

/-! ## The image -/

/-- The byte at a position (R21). -/
def Memory.read : Memory → Nat → Byte
  | [], _ => Memory.unlisted
  | (a, b) :: m, i => if a = i then b else Memory.read m i

/-- The image of a sequence of bytes whose first byte stands at position `i`. -/
def Memory.ofBytesFrom : Nat → List Byte → Memory
  | _, [] => []
  | i, b :: bs =>
    if b = Memory.unlisted then Memory.ofBytesFrom (i + 1) bs else (i, b) :: Memory.ofBytesFrom (i + 1) bs

/-- The image of the raw cartridge bytes: position 0 is the first of them (R21). -/
def Memory.ofBytes (bs : List Byte) : Memory :=
  Memory.ofBytesFrom 0 bs

/-- The image index of a location (R62, R115, D9). -/
def imageIndex (s : State) (bank offset : Nat) : Nat :=
  bank * bankSize s.scheme s.len + offset

/-- `byte_at(bank, offset)` (R114): the byte, or the kind it raises. No clamping (R205). -/
def byteAt (s : State) (bank offset : Nat) : Except FaultKind Byte :=
  if bankSize s.scheme s.len ≤ offset then .error .outOfRange
  else if bankCount s.scheme ≤ bank then .error .outOfRange
  else if s.len ≤ imageIndex s bank offset then .error .outOfRange
  else .ok (s.image.read (imageIndex s bank offset))

/-! ## Fault entry, and the one way back -/

/-- `raise K` (R206): `FAULT <- K` and the drive of the iteration does not happen. Nothing else is saved or
changed; stage REL then runs as in every iteration. -/
def raise (k : FaultKind) (s : State) : State :=
  { s with fault := k, out := .hiZ }

/-- A power cycle (R208, R230): the only thing that clears `FAULT` or returns `PHASE` to `Idle`. The artifact
survives (R213). -/
def powerCycle (s : State) : State :=
  State.powerOn s.params s.persisted s.input s.events

/-! ## load -/

/-- What a successful `load` establishes (R110). -/
structure Loaded where
  image  : Memory
  len    : Nat
  scheme : Scheme
  deriving DecidableEq, Repr

/-- `load(bytes, declared_scheme?)` (R110 to R113): the length first, then the tag; a supplied tag is trusted. -/
def load (a : Artifact) : Except FaultKind Loaded :=
  let n := a.bytes.length
  if supportedSize n then
    match a.tag with
    | some s => .ok { image := Memory.ofBytes a.bytes, len := n, scheme := s }
    | Option.none =>
      match inferScheme n with
      | some s => .ok { image := Memory.ofBytes a.bytes, len := n, scheme := s }
      | Option.none => .error .ambiguousScheme
  else .error .invalidImageSize

/-- `IMAGE`, `LEN`, `SCHEME` as `load` established them, and `BANK <- RESET_BANK(SCHEME)` (R110, R231). -/
def establish (l : Loaded) (s : State) : State :=
  { s with image := l.image, len := l.len, scheme := l.scheme, bank := resetBank s.params l.scheme }

/-- The rest of `Reset` after power is applied (R231, R233(2) and (3)): `load` the persisted artifact; if it fails,
the configuration is not established and `FAULT` says so (R206). -/
def bootLoad (s : State) : State :=
  match load s.persisted with
  | .ok l => establish l { s with loaded := true }
  | .error k => raise k { s with loaded := true }

/-! ## The environment -/

/-- The next event: the first listed, or the environment's own (R9; log 9). -/
def nextEvent (s : State) : Event :=
  match s.input with
  | e :: _ => e
  | [] => Config.environment s.events

/-- One event is consumed. -/
def consumeEvent (s : State) : State :=
  { s with input := s.input.tail, events := s.events + 1 }

/-- An iteration begins with no line driven: `out <- HiZ` (R160). -/
def beginIteration (s : State) : State :=
  { consumeEvent s with out := .hiZ }

/-- What selects among the decode tables (R88). -/
def context (s : State) : DecodeContext where
  fault  := s.fault
  phase  := s.phase
  scheme := s.scheme
  params := s.params

/-! ## Writes of the registers -/

/-- `PHASE <- v`, the Halt Synchronizer's write (R24). -/
def setPhase (v : Phase) (s : State) : State :=
  { s with phase := v }

/-- `BANK <- n`, the Bank State Machine's write (R23). -/
def selectBank (n : Nat) (s : State) : State :=
  { s with bank := n }

/-- `out` is `HiZ`: no data line is driven in this cycle (R165, R166, R181, R207). -/
def driveNothing (s : State) : State :=
  { s with out := .hiZ }

/-- `DOUT <- b; OE <- 1; out <- Drive(b)` (R164). -/
def driveByte (b : Byte) (s : State) : State :=
  { s with dout := b, oe := true, out := .drive b }

/-- `OE <- 0` (R167). -/
def release (s : State) : State :=
  { s with oe := false }

/-- Push a cycle into `HIST`, ask the selector, write `BANK` if it answers (R135). The selector is an argument so
that the plumbing can be read and tested apart from the uninterpreted `FE_SELECT`. -/
def observeCycle (select : List HistEntry → Option Nat) (c : BusCycle) (s : State) : State :=
  let h := pushHistory s.params.feDepth c s.hist
  match select h with
  | some b => { s with hist := h, bank := b }
  | Option.none => { s with hist := h }

/-- The lookup of a served read and its drive, or the fault it raises (R164, R206). -/
def serveRead (a : Address) (s : State) : State :=
  match byteAt s s.bank (lookupOffset s.scheme s.len a) with
  | .ok b => driveByte b s
  | .error k => raise k s

end Sys2Proof.Machine
end

