-- ==== Sys2Proof/Machine/Bank.lean ====
section
/-! DEFINITION. The operations of stage BANK (spec/30_encoding.md R85; spec/41_bank_state_machine.md R131 to R137).
None drives a line and none raises a fault. -/

namespace Sys2Proof.Machine

/-- `BANK_NONE` (R131): nothing. -/
def execBankNone (_c : BusCycle) (s : State) : Host.Outcome State Fault Refusal :=
  .next s

/-- `BANK_F8_0` (R132): `BANK <- 0`. -/
def execBankF80 (_halted _isWrite : Bool) (s : State) : Host.Outcome State Fault Refusal :=
  .next (selectBank 0 s)

/-- `BANK_F8_1` (R132): `BANK <- 1`. -/
def execBankF81 (_halted _isWrite : Bool) (s : State) : Host.Outcome State Fault Refusal :=
  .next (selectBank 1 s)

/-- `BANK_F8_NOP` (R137): a cycle that does not qualify changes nothing. -/
def execBankF8Nop (_c : BusCycle) (s : State) : Host.Outcome State Fault Refusal :=
  .next s

/-- `BANK_F6_0` (R133): `BANK <- 0`. -/
def execBankF60 (_halted _isWrite : Bool) (s : State) : Host.Outcome State Fault Refusal :=
  .next (selectBank 0 s)

/-- `BANK_F6_1` (R133): `BANK <- 1`. -/
def execBankF61 (_halted _isWrite : Bool) (s : State) : Host.Outcome State Fault Refusal :=
  .next (selectBank 1 s)

/-- `BANK_F6_2` (R133): `BANK <- 2`. -/
def execBankF62 (_halted _isWrite : Bool) (s : State) : Host.Outcome State Fault Refusal :=
  .next (selectBank 2 s)

/-- `BANK_F6_3` (R133): `BANK <- 3`. -/
def execBankF63 (_halted _isWrite : Bool) (s : State) : Host.Outcome State Fault Refusal :=
  .next (selectBank 3 s)

/-- `BANK_F6_NOP` (R137): a cycle that does not qualify changes nothing. -/
def execBankF6Nop (_c : BusCycle) (s : State) : Host.Outcome State Fault Refusal :=
  .next s

/-- `BANK_F4_0` (R134): `BANK <- 0`. -/
def execBankF40 (_halted _isWrite : Bool) (s : State) : Host.Outcome State Fault Refusal :=
  .next (selectBank 0 s)

/-- `BANK_F4_1` (R134): `BANK <- 1`. -/
def execBankF41 (_halted _isWrite : Bool) (s : State) : Host.Outcome State Fault Refusal :=
  .next (selectBank 1 s)

/-- `BANK_F4_2` (R134): `BANK <- 2`. -/
def execBankF42 (_halted _isWrite : Bool) (s : State) : Host.Outcome State Fault Refusal :=
  .next (selectBank 2 s)

/-- `BANK_F4_3` (R134): `BANK <- 3`. -/
def execBankF43 (_halted _isWrite : Bool) (s : State) : Host.Outcome State Fault Refusal :=
  .next (selectBank 3 s)

/-- `BANK_F4_4` (R134): `BANK <- 4`. -/
def execBankF44 (_halted _isWrite : Bool) (s : State) : Host.Outcome State Fault Refusal :=
  .next (selectBank 4 s)

/-- `BANK_F4_5` (R134): `BANK <- 5`. -/
def execBankF45 (_halted _isWrite : Bool) (s : State) : Host.Outcome State Fault Refusal :=
  .next (selectBank 5 s)

/-- `BANK_F4_6` (R134): `BANK <- 6`. -/
def execBankF46 (_halted _isWrite : Bool) (s : State) : Host.Outcome State Fault Refusal :=
  .next (selectBank 6 s)

/-- `BANK_F4_7` (R134): `BANK <- 7`. -/
def execBankF47 (_halted _isWrite : Bool) (s : State) : Host.Outcome State Fault Refusal :=
  .next (selectBank 7 s)

/-- `BANK_F4_NOP` (R137): a cycle that does not qualify changes nothing. -/
def execBankF4Nop (_c : BusCycle) (s : State) : Host.Outcome State Fault Refusal :=
  .next s

/-- `BANK_FE_OBSERVE` (R135): the cycle enters `HIST`, and `FE_SELECT` decides whether `BANK` is written. -/
def execBankFeObserve (c : BusCycle) (s : State) : Host.Outcome State Fault Refusal :=
  .next (observeCycle Config.feSelect c s)

end Sys2Proof.Machine
end

