-- ==== Sys2Proof/Machine/Data.lean ====
section
/-! DEFINITION. The operations of stage DATA (spec/30_encoding.md R86; spec/42_sampler_driver.md R164 to R166). -/

namespace Sys2Proof.Machine

/-- `DATA_WRITE` (R165): drive nothing; the console's data byte is not sampled. -/
def execDataWrite (_halted : Bool) (_address : Address) (s : State) : Host.Outcome State Fault Refusal :=
  .next (driveNothing s)

/-- `DATA_READ` (R164): drive the byte at `(BANK, address & offset_mask)`, or raise `OutOfRange`. -/
def execDataRead (_halted : Bool) (address : Address) (s : State) : Host.Outcome State Fault Refusal :=
  .next (serveRead address s)

/-- `DATA_OUTSIDE` (R166): drive nothing. -/
def execDataOutside (_c : BusCycle) (s : State) : Host.Outcome State Fault Refusal :=
  .next (driveNothing s)

end Sys2Proof.Machine
end

