-- ==== Sys2Proof/Machine/Gate.lean ====
section
/-! DEFINITION. The operations of stage GATE (spec/30_encoding.md R84; spec/43_halt_synchronizer.md R181 to R184;
spec/60_exceptions.md R207). Which operation is selected, and that stages BANK and DATA are skipped after two of
them, is the decoder's (R83). -/

namespace Sys2Proof.Machine

/-- `GATE_STOPPED` (R207): no state change, `out = HiZ`. -/
def execGateStopped (_c : BusCycle) (s : State) : Host.Outcome State Fault Refusal :=
  .next (driveNothing s)

/-- `GATE_HOLD` (R181): no state change, `out = HiZ`; address and direction have no effect. -/
def execGateHold (_isWrite : Bool) (_address : Address) (s : State) : Host.Outcome State Fault Refusal :=
  .next (driveNothing s)

/-- `GATE_ARM` (R182): `PHASE <- Armed`. -/
def execGateArm (_isWrite : Bool) (_address : Address) (s : State) : Host.Outcome State Fault Refusal :=
  .next (setPhase .armed s)

/-- `GATE_ADVANCE` (R183): `PHASE <- Running`. -/
def execGateAdvance (_c : BusCycle) (s : State) : Host.Outcome State Fault Refusal :=
  .next (setPhase .running s)

/-- `GATE_PASS` (R184): no state is written. -/
def execGatePass (_c : BusCycle) (s : State) : Host.Outcome State Fault Refusal :=
  .next s

end Sys2Proof.Machine
end

