-- ==== Sys2Proof/Machine/Release.lean ====
section
/-! DEFINITION. The operation of stage REL (spec/42_sampler_driver.md R167). -/

namespace Sys2Proof.Machine

/-- `REL` (R167): `OE <- 0`; `DOUT` keeps its value. -/
def execRel (_c : BusCycle) (s : State) : Host.Outcome State Fault Refusal :=
  .next (release s)

end Sys2Proof.Machine
end

