-- ==== Sys2Proof/Machine/Dispatch.lean ====
section
/-! DEFINITION. The meaning of every operation, one arm a constructor. -/

namespace Sys2Proof.Machine

def exec (i : Instr) (s : State) : Host.Outcome State Fault Refusal :=
  match i with
  | .gateStopped c => Sys2Proof.Machine.execGateStopped c s
  | .gateHold isWrite address => Sys2Proof.Machine.execGateHold isWrite address s
  | .gateArm isWrite address => Sys2Proof.Machine.execGateArm isWrite address s
  | .gateAdvance c => Sys2Proof.Machine.execGateAdvance c s
  | .gatePass c => Sys2Proof.Machine.execGatePass c s
  | .bankNone c => Sys2Proof.Machine.execBankNone c s
  | .bankF80 halted isWrite => Sys2Proof.Machine.execBankF80 halted isWrite s
  | .bankF81 halted isWrite => Sys2Proof.Machine.execBankF81 halted isWrite s
  | .bankF8Nop c => Sys2Proof.Machine.execBankF8Nop c s
  | .bankF60 halted isWrite => Sys2Proof.Machine.execBankF60 halted isWrite s
  | .bankF61 halted isWrite => Sys2Proof.Machine.execBankF61 halted isWrite s
  | .bankF62 halted isWrite => Sys2Proof.Machine.execBankF62 halted isWrite s
  | .bankF63 halted isWrite => Sys2Proof.Machine.execBankF63 halted isWrite s
  | .bankF6Nop c => Sys2Proof.Machine.execBankF6Nop c s
  | .bankF40 halted isWrite => Sys2Proof.Machine.execBankF40 halted isWrite s
  | .bankF41 halted isWrite => Sys2Proof.Machine.execBankF41 halted isWrite s
  | .bankF42 halted isWrite => Sys2Proof.Machine.execBankF42 halted isWrite s
  | .bankF43 halted isWrite => Sys2Proof.Machine.execBankF43 halted isWrite s
  | .bankF44 halted isWrite => Sys2Proof.Machine.execBankF44 halted isWrite s
  | .bankF45 halted isWrite => Sys2Proof.Machine.execBankF45 halted isWrite s
  | .bankF46 halted isWrite => Sys2Proof.Machine.execBankF46 halted isWrite s
  | .bankF47 halted isWrite => Sys2Proof.Machine.execBankF47 halted isWrite s
  | .bankF4Nop c => Sys2Proof.Machine.execBankF4Nop c s
  | .bankFeObserve c => Sys2Proof.Machine.execBankFeObserve c s
  | .dataWrite halted address => Sys2Proof.Machine.execDataWrite halted address s
  | .dataRead halted address => Sys2Proof.Machine.execDataRead halted address s
  | .dataOutside c => Sys2Proof.Machine.execDataOutside c s
  | .rel c => Sys2Proof.Machine.execRel c s

end Sys2Proof.Machine
end

