-- ==== Sys2Proof/Machine/Iteration.lean ====
section
/-! DEFINITION. One iteration (spec/42_sampler_driver.md R160): the word is decoded into the operations of its
stages, which run in order. And how a table word is placed where the next step samples it (log 11). -/

namespace Sys2Proof.Machine

/-- The operations run in order, each on the state the one before left (R64(b), R83). -/
def execAll : List Instr → State → Host.Outcome State Fault Refusal
  | [], s => .next s
  | i :: is, s =>
    match exec i s with
    | .next t => execAll is t
    | .fault r => .fault r
    | .refused r => .refused r

/-- One iteration on the bus cycle `c` (R160, R169). -/
def runCycle (c : BusCycle) (s : State) : Host.Outcome State Fault Refusal :=
  execAll (decodeIteration (context s) c.word) (beginIteration s)

/-- What one step does: after power is applied, `load` first, consuming no event (R233); then, for each event, one
iteration (R160) or a power cycle (R230). -/
def engineStep (s : State) : Host.Outcome State Fault Refusal :=
  if s.loaded then
    match nextEvent s with
    | .cycle c => runCycle c s
    | .powerCycle => .next (powerCycle (consumeEvent s))
  else .next (bootLoad s)

/-- The state in which the next step samples the table word `w`, in the context it is read in (log 11): the loading
done, no fault, `PHASE = Idle`, the word's scheme, the default window and trigger directions, an image where there
is none, and the word's bus cycle the next event. A number that is no bus-cycle word is not placed. -/
def placeWord (s : State) (w : Nat) : State :=
  match wordOfNat w with
  | .error _ => s
  | .ok v =>
    let x := tableContext v
    { s with
      loaded := true
      fault  := x.fault
      phase  := x.phase
      scheme := x.scheme
      params := { s.params with
        windowMask := x.params.windowMask, windowMatch := x.params.windowMatch, triggerF8 := x.params.triggerF8
        triggerF6 := x.params.triggerF6, triggerF4 := x.params.triggerF4 }
      len    := if s.loaded then s.len else 32768
      bank   := if s.loaded then s.bank else resetBank s.params x.scheme
      input  := .cycle (BusCycle.ofWord v) :: s.input }

end Sys2Proof.Machine
end

