-- ==== Sys2Proof/Machine/Step.lean ====
section
/-! DEFINITION. The step function, and the placing of a word where the next step samples it. -/

namespace Sys2Proof.Machine

/-- One step: the load after power-on, one iteration, or a power cycle. -/
def step (s : State) : Host.Outcome State Fault Refusal :=
  engineStep s

/-- `s` with the table word `w` where the next step samples its bus cycle (log 11). -/
def State.withFetchWord (s : State) (_nbits w : Nat) : State :=
  placeWord s w

end Sys2Proof.Machine
end

