-- ==== Sys2Proof/Safety.lean ====
section
/-! DEFINITION. The terms claims are stated in: the invariant, the premises of spec/70_reset_and_hazards.md R246, the
drive condition of R168, and the iteration as one block (R160), written apart from the decoder and the meanings. -/

namespace Sys2Proof.Machine

/-! ## What the next step is -/

/-- The next step is an iteration on the bus cycle `c`: the loading is done (`LoadBeforeFirstCycle`, R246) and the
next event is `c`. -/
def Presents (s : State) (c : BusCycle) : Prop :=
  s.loaded = true ∧ nextEvent s = .cycle c

/-- The next step is a power cycle (R230). -/
def PowersOff (s : State) : Prop :=
  s.loaded = true ∧ nextEvent s = .powerCycle

/-- Two states agree on the block's own state: the components of R20, the parameters, the persisted artifact and
whether it is loaded. The environment's list and counter and the latest output are not the block's. -/
def SameBlock (s t : State) : Prop :=
  t = { s with input := t.input, events := t.events, out := t.out }

/-! ## The invariant -/

/-- Every listed position of `IMAGE` is below `LEN` (R21). -/
def imageInside (s : State) : Prop :=
  ∀ cell ∈ s.image, cell.1 < s.len

/-- What every step keeps (R31 and the rules it names): no line driven between iterations; the image in canonical
form and inside `LEN`; the parameters within R7's constraints; before the load and after a failed one the phase
still `Idle` (R206, R231); and, once configured, `LEN` a supported size, `HIST` at most `FE_DEPTH` long and empty but
under `FE` (R27), `BANK` below the scheme's bank count but under `FE` (R31), and, until the block is released, `BANK`
the reset bank and `HIST` empty (R181, R231). -/
structure Inv (s : State) : Prop where
  released     : s.oe = false
  canonical    : s.image.wf = true
  inside       : imageInside s
  paramsWf     : s.params.wf = true
  unloaded     : s.loaded = false → s.phase = .idle ∧ s.fault = .noFault ∧ s.hist = []
  loadFailed   : s.fault = .invalidImageSize ∨ s.fault = .ambiguousScheme → s.phase = .idle ∧ s.hist = []
  sizeSupported : configured s = true → supportedSize s.len = true
  historyBound : configured s = true → s.hist.length ≤ s.params.feDepth
  historyFeOnly : configured s = true → s.scheme ≠ .fe → s.hist = []
  bankInRange  : configured s = true → s.scheme ≠ .fe → s.bank < bankCount s.scheme
  idleIsReset  : configured s = true → s.phase = .idle → s.bank = resetBank s.params s.scheme ∧ s.hist = []

/-! ## Premises and conditions -/

/-- `TagMatchesLength` (R246): tag and length agree as in R112(a). -/
def tagMatchesLength (s : State) : Bool :=
  match s.scheme with
  | .none => s.len == 2048 || s.len == 4096
  | .f8 => s.len == 8192
  | .f6 => s.len == 16384
  | .f4 | .fe => s.len == 32768

/-- Stage GATE lets the cycle through to stages BANK and DATA (R84): no fault, and not held. -/
def gateOpen (s : State) (c : BusCycle) : Bool :=
  s.fault == .noFault && !(s.phase == .idle && c.halted)

/-- `PHASE` after stage GATE has let a cycle through (R182, R183, R184). -/
def phaseAfter : Phase → Phase
  | .idle => .armed
  | .armed => .running
  | .running => .running

/-- `HIST` after stage BANK has seen `c` (R135; R27: empty and never written but under `FE`). -/
def histAfter (s : State) (c : BusCycle) : List HistEntry :=
  match s.scheme with
  | .fe => (((c.address, c.isWrite) :: s.hist).take s.params.feDepth)
  | .none | .f8 | .f6 | .f4 => s.hist

/-- `BANK` after stage BANK has seen `c` (R130), from R136's ranges. -/
def bankAfter (s : State) (c : BusCycle) : Nat :=
  match s.scheme with
  | .none => s.bank
  | .f8 => if qualifies s.params .f8 c then c.address.toNat - 0x1FF8 else s.bank
  | .f6 => if qualifies s.params .f6 c then c.address.toNat - 0x1FF6 else s.bank
  | .f4 => if qualifies s.params .f4 c then c.address.toNat - 0x1FF4 else s.bank
  | .fe => (Config.feSelect (histAfter s c)).getD s.bank

/-- The lookup of a served read in the iteration of `c`: `byte_at` with the bank stage BANK leaves and the masked
offset (R62, R164). -/
def lookupAfter (s : State) (c : BusCycle) : Except FaultKind Byte :=
  byteAt s (bankAfter s c) (lookupOffset s.scheme s.len c.address)

/-- The cycle is a read inside the mapped window (R164). -/
def readInWindow (s : State) (c : BusCycle) : Bool :=
  !c.isWrite && inWindow s.params c.address

/-- The output of the iteration of `c` (R168): the byte looked up, if the gate is open, the cycle is a read inside
the window and the lookup returns a byte; else nothing is driven. -/
def outputOf (s : State) (c : BusCycle) : Output :=
  if gateOpen s c && readInWindow s c then
    match lookupAfter s c with
    | .ok b => .drive b
    | .error _ => .hiZ
  else .hiZ

/-! ## The iteration as one block (R160) -/

/-- Stage BANK of R160, by the cases of R130. -/
def referenceBank (c : BusCycle) (s : State) : State :=
  { s with hist := histAfter s c, bank := bankAfter s c }

/-- Stage DATA of R160: steps 4 and 5. -/
def referenceData (c : BusCycle) (s : State) : State :=
  if c.isWrite then s
  else if inWindow s.params c.address then
    match byteAt s s.bank (lookupOffset s.scheme s.len c.address) with
    | .ok b => { s with dout := b, oe := true, out := .drive b }
    | .error k => { s with fault := k }
  else s

/-- `Step(c)` of R160 on a state whose output is already `HiZ`. -/
def referenceIteration (c : BusCycle) (s : State) : State :=
  let afterGate : State :=
    if s.fault ≠ .noFault then s
    else if s.phase = .idle ∧ c.halted = true then s
    else if s.phase = .idle then referenceData c (referenceBank c { s with phase := .armed })
    else if s.phase = .armed then referenceData c (referenceBank c { s with phase := .running })
    else referenceData c (referenceBank c s)
  { afterGate with oe := false }

/-! ## Runs -/

/-- `n` steps, stopping at the first fault or refusal. -/
def runSteps : Nat → State → Host.Outcome State Fault Refusal
  | 0, s => .next s
  | n + 1, s =>
    match step s with
    | .next t => runSteps n t
    | .fault r => .fault r
    | .refused r => .refused r

/-- The cycles that reach the Bank State Machine and qualify (R136). -/
def qualifyingCycles (p : Params) (s : Scheme) (cs : List BusCycle) : List BusCycle :=
  cs.filter (qualifies p s)

/-- The bank after consumed cycles, by R140: the bank of the latest qualifying cycle, or the one before. -/
def bankOfLatest (p : Params) (s : Scheme) (start : Nat) (cs : List BusCycle) : Nat :=
  match (qualifyingCycles p s cs).getLast? with
  | some c => hotspotBank s c
  | Option.none => start

/-! ## Hotspot operations -/

/-- The scheme and the bank of a hotspot row (R61, R85). -/
def hotspotOf : Instr → Option (Scheme × Nat)
  | .bankF80 _ _ => some (.f8, 0)
  | .bankF81 _ _ => some (.f8, 1)
  | .bankF60 _ _ => some (.f6, 0)
  | .bankF61 _ _ => some (.f6, 1)
  | .bankF62 _ _ => some (.f6, 2)
  | .bankF63 _ _ => some (.f6, 3)
  | .bankF40 _ _ => some (.f4, 0)
  | .bankF41 _ _ => some (.f4, 1)
  | .bankF42 _ _ => some (.f4, 2)
  | .bankF43 _ _ => some (.f4, 3)
  | .bankF44 _ _ => some (.f4, 4)
  | .bankF45 _ _ => some (.f4, 5)
  | .bankF46 _ _ => some (.f4, 6)
  | .bankF47 _ _ => some (.f4, 7)
  | .gateStopped _ | .gateHold _ _ | .gateArm _ _ | .gateAdvance _ | .gatePass _
  | .bankNone _ | .bankF8Nop _ | .bankF6Nop _ | .bankF4Nop _ | .bankFeObserve _
  | .dataWrite _ _ | .dataRead _ _ | .dataOutside _ | .rel _ => Option.none

/-- In an iteration on `c`, from `s` to `t`: stage BANK selects the row of `i`, which writes `n` into `BANK` and nothing
else, and `t.bank` is `n`. -/
def SelectsBank (s t : State) (c : BusCycle) (i : Instr) (n : Nat) : Prop :=
  decodeBank (context s) c.word = i ∧ (∀ u, exec i u = .next { u with bank := n }) ∧ t.bank = n

end Sys2Proof.Machine
end

