-- ==== Sys2Proof/Certificates/Slice0/Obligations.lean ====
section
/-! DEFINITION. What is stated of the model, for the provers. Each docstring names the rule of spec/ it formalises, or
the sections it rests on and what in it is the model's own choice. -/

open Sys2Proof Sys2Proof.Machine

/-! ## Decoding and the step -/

/-- Decode and encode agree, for every operation of the table and every operand its row admits: in a context in
which the row of `i` holds, its stage's table selects `i` for the word of `i` (spec/30_encoding.md section 2). -/
def Obligations.DecodeRecoversEveryEncodedOperation : Prop :=
  ∀ (x : DecodeContext) (i : Instr), i.wf x = true → decodeStage i.stage x (encode i) = i

/-- "In each stage exactly one operation of that stage's table is selected": for every word, in every context, the
rows that hold are one (spec/30_encoding.md sections 2 and 3). -/
def Obligations.EveryWordSelectsExactlyOneOperationPerStage : Prop :=
  ∀ (x : DecodeContext) (st : Stage) (w : Word), ∃! i : Instr, i.stage = st ∧ i.wf x = true ∧ encode i = w

/-- R82. -/
def Obligations.WordFieldsArePlainExtraction : Prop :=
  ∀ w : Word,
    (BusCycle.ofWord w).halted = w.getLsbD 17 ∧ (BusCycle.ofWord w).isWrite = w.getLsbD 16 ∧
    ∀ i, i < 16 → (BusCycle.ofWord w).address.getLsbD i = w.getLsbD i

/-- Words written out from the spec's tables decode to the operations they stand for, in every stage and scheme
(spec/30_encoding.md sections 2 and 4, spec/95_test_vectors.md section 2). -/
def Obligations.SampleWordsDecodeAsTheTablesSay : Prop :=
  let x (ph : Phase) (s : Scheme) : DecodeContext :=
    { fault := .noFault, phase := ph, scheme := s, params := Config.params }
  decodeStage .gate (x .idle .f8) 0x21FF8 = .gateHold false 0x1FF8 ∧
  decodeStage .gate (x .idle .f8) 0x00000 = .gateArm false 0x0000 ∧
  decodeStage .gate (x .armed .f8) 0x20001 = .gateAdvance { address := 0x0001, isWrite := false, halted := true } ∧
  decodeStage .gate (x .running .f8) 0x3FFFF = .gatePass { address := 0xFFFF, isWrite := true, halted := true } ∧
  decodeStage .gate { x .idle .f8 with fault := .outOfRange } 0x20000
    = .gateStopped { address := 0x0000, isWrite := false, halted := true } ∧
  decodeStage .bank (x .running .none) 0x01FF8 = .bankNone { address := 0x1FF8, isWrite := false, halted := false } ∧
  decodeStage .bank (x .running .f8) 0x11FF9 = .bankF81 false true ∧
  decodeStage .bank (x .running .f8) 0x01FF7 = .bankF8Nop { address := 0x1FF7, isWrite := false, halted := false } ∧
  decodeStage .bank (x .running .f6) 0x01FF9 = .bankF63 false false ∧
  decodeStage .bank (x .running .f4) 0x01FFB = .bankF47 false false ∧
  decodeStage .bank (x .running .fe) 0x11FFC
    = .bankFeObserve { address := 0x1FFC, isWrite := true, halted := false } ∧
  decodeStage .data (x .running .f8) 0x10080 = .dataWrite false 0x0080 ∧
  decodeStage .data (x .running .f8) 0x01FFF = .dataRead false 0x1FFF ∧
  decodeStage .data (x .running .f8) 0x02000
    = .dataOutside { address := 0x2000, isWrite := false, halted := false } ∧
  decodeStage .rel (x .running .f8) 0x01FF9 = .rel { address := 0x1FF9, isWrite := false, halted := false }

/-- R92: the mask and the match of a hotspot row under each setting, and the cycles they admit. -/
def Obligations.HotspotRowsFollowTheTriggerDirection : Prop :=
  ∀ (a : Address) (c : BusCycle),
    (hotspotMask .either = 0x0FFFF ∧ hotspotMatch .either a = a.setWidth 18) ∧
    (hotspotMask .readOnly = 0x1FFFF ∧ hotspotMatch .readOnly a = a.setWidth 18) ∧
    (hotspotMask .writeOnly = 0x1FFFF ∧ hotspotMatch .writeOnly a = 0x10000 ||| a.setWidth 18) ∧
    (hotspotHits .either a c.word = true ↔ c.address = a) ∧
    (hotspotHits .readOnly a c.word = true ↔ c.address = a ∧ c.isWrite = false) ∧
    (hotspotHits .writeOnly a c.word = true ↔ c.address = a ∧ c.isWrite = true) ∧
    (Config.params.triggerF8 = .either ∧ Config.params.triggerF6 = .either ∧ Config.params.triggerF4 = .either)

/-- R93: which words stage DATA serves, under any window; and that bit 17 is in no row's mask: the word with that bit
flipped selects the same row of stage DATA, with the same operands but for the halt sample. -/
def Obligations.DataReadRowFollowsTheWindow : Prop :=
  ∀ (x : DecodeContext) (w : Word),
    ((∃ h a, decodeStage .data x w = .dataRead h a) ↔
      (w &&& (0x10000 ||| x.params.windowMask.setWidth 18)) = x.params.windowMatch.setWidth 18) ∧
    ((∃ h a, decodeStage .data x w = .dataRead h a) ↔
      w.getLsbD 16 = false ∧ (w.extractLsb' 0 16 &&& x.params.windowMask) = x.params.windowMatch) ∧
    (∀ h a, decodeStage .data x w = .dataWrite h a ↔ decodeStage .data x (w ^^^ 0x20000) = .dataWrite (!h) a) ∧
    (∀ h a, decodeStage .data x w = .dataRead h a ↔ decodeStage .data x (w ^^^ 0x20000) = .dataRead (!h) a) ∧
    (∀ c, decodeStage .data x w = .dataOutside c ↔
      decodeStage .data x (w ^^^ 0x20000) = .dataOutside { c with halted := !c.halted })

/-- A step runs the decoded operations: when the next event is the bus cycle `c`, step is the operations that the
cycle's word decodes to, run in order by exec on the state with the event consumed and `out = HiZ`; each of them has
its row's condition met and is an operation of that word (spec/30_encoding.md section 2). -/
def Obligations.StepRunsTheDecodedOperations : Prop :=
  ∀ (s : State) (c : BusCycle), Presents s c →
    step s = execAll (decodeIteration (context s) c.word)
      { s with input := s.input.tail, events := s.events + 1, out := .hiZ } ∧
    (decodeIteration (context s) c.word = [decodeGate (context s) c.word, decodeRel c.word] ∨
      decodeIteration (context s) c.word =
        [decodeGate (context s) c.word, decodeBank (context s) c.word, decodeData (context s) c.word,
          decodeRel c.word]) ∧
    ∀ i ∈ decodeIteration (context s) c.word, i.wf (context s) = true ∧ encode i = c.word

/-- The MODEL's own convention (log 11): the operation that decodeTableWord reads from a number is run by the step
that follows withFetchWord. It rests on spec/30_encoding.md section 2. -/
def Obligations.PlacedWordIsRunByTheNextStep : Prop :=
  ∀ (s : State) (n w : Nat) (i : Instr), decodeTableWord n w = some i →
    encode i = BitVec.ofNat 18 w ∧ Presents (s.withFetchWord n w) i.cycle ∧
    i ∈ decodeIteration (context (s.withFetchWord n w)) i.cycle.word

/-- R160 and R130: the step on a bus cycle is the spec's block of pseudocode, written apart from the decode tables. -/
def Obligations.StepIsTheReferenceIteration : Prop :=
  ∀ (s : State) (c : BusCycle), Presents s c →
    step s = .next (referenceIteration c { s with input := s.input.tail, events := s.events + 1, out := .hiZ })

/-- "A run never ends by itself": any number of steps, from any state, answers a next state; so no step faults, with
bus contention or otherwise, and none is refused (spec/70_reset_and_hazards.md section 5). -/
def Obligations.RunNeverEnds : Prop :=
  ∀ (n : Nat) (s : State), ∃ t, runSteps n s = .next t

/-! ## The invariant -/

/-- The invariant holds right after power is applied (spec/10_state.md sections 6 and 7). That no image is listed
and `LEN` is 0 before the load is the model's choice (log 7). -/
def Obligations.InvariantHoldsAtReset : Prop :=
  Inv State.reset

/-- Every step keeps the invariant: a load, an iteration, a power cycle (spec/10_state.md section 6). -/
def Obligations.EveryStepKeepsTheInvariant : Prop :=
  ∀ s t : State, Inv s → step s = .next t → Inv t

/-! ## What each operation does -/

/-- The operations of stage GATE, each with all it changes (spec/43_halt_synchronizer.md section 2,
spec/60_exceptions.md section 2). -/
def Obligations.GateOperationsWriteOnlyThePhase : Prop :=
  ∀ (c : BusCycle) (w : Bool) (a : Address) (s : State),
    exec (.gateStopped c) s = .next { s with out := .hiZ } ∧
    exec (.gateHold w a) s = .next { s with out := .hiZ } ∧
    exec (.gateArm w a) s = .next { s with phase := .armed } ∧
    exec (.gateAdvance c) s = .next { s with phase := .running } ∧
    exec (.gatePass c) s = .next s

/-- Each of the 14 hotspot operations writes its bank number into `BANK` and nothing else
(spec/41_bank_state_machine.md section 2). -/
def Obligations.HotspotOperationsWriteTheirBank : Prop :=
  ∀ (i : Instr) (s : State) (sch : Scheme) (n : Nat), hotspotOf i = some (sch, n) →
    exec i s = .next { s with bank := n }

/-- The operations of stage BANK that change nothing (spec/41_bank_state_machine.md sections 2 and 3). -/
def Obligations.DefaultBankOperationsChangeNothing : Prop :=
  ∀ (c : BusCycle) (s : State),
    exec (.bankNone c) s = .next s ∧ exec (.bankF8Nop c) s = .next s ∧
    exec (.bankF6Nop c) s = .next s ∧ exec (.bankF4Nop c) s = .next s

/-- `BANK_FE_OBSERVE`, whatever `FE_SELECT` is (spec/41_bank_state_machine.md section 2): the cycle enters `HIST`,
cut to `FE_DEPTH` entries, and `BANK` is what the selector answers for the new history, or stays. -/
def Obligations.FeObserveFeedsTheHistory : Prop :=
  ∀ (c : BusCycle) (s : State),
    exec (.bankFeObserve c) s = .next { s with
      hist := ((c.address, c.isWrite) :: s.hist).take s.params.feDepth
      bank := (Config.feSelect (((c.address, c.isWrite) :: s.hist).take s.params.feDepth)).getD s.bank }

/-- `DATA_READ`, its byte and its fault (spec/42_sampler_driver.md section 2, spec/40_image_store.md section 2): where
the location is valid the byte is driven; where it is not, `OutOfRange` is raised, nothing is driven and `DOUT`
stays. The tests' being `>=` is the spec's decision D10. -/
def Obligations.DataReadServesOrRaises : Prop :=
  ∀ (h : Bool) (a : Address) (s : State),
    let offset := (a &&& offsetMask s.scheme s.len).toNat
    let index := s.bank * bankSize s.scheme s.len + offset
    (offset < bankSize s.scheme s.len → s.bank < bankCount s.scheme → index < s.len →
      exec (.dataRead h a) s =
        .next { s with dout := s.image.read index, oe := true, out := .drive (s.image.read index) }) ∧
    (bankSize s.scheme s.len ≤ offset ∨ bankCount s.scheme ≤ s.bank ∨ s.len ≤ index →
      exec (.dataRead h a) s = .next { s with fault := .outOfRange, out := .hiZ })

/-- The operations of stages DATA and REL that drive nothing (spec/42_sampler_driver.md sections 2 and 3). -/
def Obligations.UndrivenOperationsAndRelease : Prop :=
  ∀ (c : BusCycle) (h : Bool) (a : Address) (s : State),
    exec (.dataWrite h a) s = .next { s with out := .hiZ } ∧
    exec (.dataOutside c) s = .next { s with out := .hiZ } ∧
    exec (.rel c) s = .next { s with oe := false }

/-- Each component of the state is written by its owner alone (spec/10_state.md section 1): stage GATE writes at most
`PHASE`, stage BANK at most `BANK` and `HIST`, stage DATA at most `DOUT`, `OE` and `FAULT`, stage REL at most `OE`;
beside these at most the iteration's output. -/
def Obligations.EachStageWritesOnlyWhatItOwns : Prop :=
  ∀ (i : Instr) (s t : State), exec i s = .next t →
    (i.stage = .gate → t = { s with phase := t.phase, out := t.out }) ∧
    (i.stage = .bank → t = { s with bank := t.bank, hist := t.hist }) ∧
    (i.stage = .data → t = { s with dout := t.dout, oe := t.oe, fault := t.fault, out := t.out }) ∧
    (i.stage = .rel → t = { s with oe := t.oe })

/-! ## The Halt Synchronizer and the stop -/

/-- R207: a stopped block, on any bus cycle, drives nothing and changes nothing; the only operations are
`GATE_STOPPED` and `REL`. -/
def Obligations.StoppedBlockDoesNothing : Prop :=
  ∀ (s : State) (c : BusCycle), Presents s c → s.fault ≠ .noFault →
    decodeIteration (context s) c.word = [.gateStopped c, .rel c] ∧
    ∃ t, step s = .next t ∧ t.out = .hiZ ∧ t.fault = s.fault ∧ t = { s with
      out := .hiZ, oe := false, input := s.input.tail, events := s.events + 1 }

/-- While the block is idle and the halt line is asserted, every cycle is held (`GATE_HOLD`, then `REL`), and any number
of bus cycles, whatever their addresses and directions, leaves the block's state as it was and drives nothing
(spec/43_halt_synchronizer.md section 2, decision D12; spec/95_test_vectors.md section 4, property 9). -/
def Obligations.HeldBlockKeepsItsState : Prop :=
  ∀ (cs : List BusCycle) (s : State), s.loaded = true → s.fault = .noFault → s.phase = .idle → s.oe = false →
    s.out = .hiZ → s.input = cs.map Event.cycle → (∀ c ∈ cs, c.halted = true) →
    (∀ c ∈ cs, decodeIteration (context s) c.word = [.gateHold c.isWrite c.address, .rel c]) ∧
    runSteps cs.length s = .next { s with input := [], events := s.events + cs.length }

/-- R182: the first cycle after the release arms the block and is served in full: stage BANK finds the reset bank, and
the byte comes from the bank as stage BANK leaves it; and the rule's worked example, under any parameters whose window
holds 0x0000. -/
def Obligations.ReleaseArmsAndServesItsCycle : Prop :=
  (∀ (s : State) (c : BusCycle), Presents s c → s.fault = .noFault → s.phase = .idle → c.halted = false →
    decodeIteration (context s) c.word =
      [.gateArm c.isWrite c.address, decodeBank (context s) c.word, decodeData (context s) c.word, .rel c] ∧
    (∀ u, exec (.gateArm c.isWrite c.address) u = .next { u with phase := .armed }) ∧
    (Inv s → s.bank = resetBank s.params s.scheme) ∧
    ∃ t, step s = .next t ∧ t.phase = .armed ∧ t.bank = bankAfter s c ∧ t.hist = histAfter s c ∧
      t.out = outputOf s c) ∧
  (∀ s : State, Presents s { address := 0x0000, isWrite := false, halted := false } → s.fault = .noFault →
    s.phase = .idle → s.scheme = .f8 → s.len = 8192 → s.bank = resetBank s.params .f8 →
    inWindow s.params 0x0000 = true →
    ∃ t, step s = .next t ∧ t.phase = .armed ∧
      t.out = .drive (s.image.read (resetBank s.params .f8 * 4096)))

/-- R183 and R184: an armed or running block runs on, whatever the halt line; the cycle is served in full. -/
def Obligations.ArmedAndRunningBlocksServeEveryCycle : Prop :=
  ∀ (s : State) (c : BusCycle), Presents s c → s.fault = .noFault →
    (s.phase = .armed →
      decodeIteration (context s) c.word =
        [.gateAdvance c, decodeBank (context s) c.word, decodeData (context s) c.word, .rel c] ∧
      (∀ u, exec (.gateAdvance c) u = .next { u with phase := .running }) ∧
      ∃ t, step s = .next t ∧ t.phase = .running ∧ t.bank = bankAfter s c ∧ t.hist = histAfter s c ∧
        t.out = outputOf s c) ∧
    (s.phase = .running →
      decodeIteration (context s) c.word =
        [.gatePass c, decodeBank (context s) c.word, decodeData (context s) c.word, .rel c] ∧
      (∀ u, exec (.gatePass c) u = .next u) ∧
      ∃ t, step s = .next t ∧ t.phase = .running ∧ t.bank = bankAfter s c ∧ t.hist = histAfter s c ∧
        t.out = outputOf s c) ∧
    (s.phase ≠ .idle → outputOf s { c with halted := !c.halted } = outputOf s c)

/-- R185: once armed the block never returns to `Idle`, and the halt samples have no effect on anything: two runs on
bus cycles that differ in their halt samples alone end in the same state, with the same output; and no operation
writes `Idle` into `PHASE`. -/
def Obligations.HaltLineHasNoEffectOnceArmed : Prop :=
  (∀ (i : Instr) (s t : State), exec i s = .next t → t.phase = .idle → s.phase = .idle) ∧
  ∀ (cs ds : List BusCycle) (s : State), s.loaded = true → s.phase ≠ .idle →
    cs.map (fun c => (c.address, c.isWrite)) = ds.map (fun c => (c.address, c.isWrite)) →
    ∃ t, runSteps cs.length { s with input := cs.map Event.cycle } = .next t ∧
      runSteps ds.length { s with input := ds.map Event.cycle } = .next t ∧ t.phase ≠ .idle

/-- The phase changes only as Idle to Armed and Armed to Running; in an iteration that is not stopped the four
transitions of spec/10_state.md section 3 are the only ones (log 18: a stopped block keeps its phase). -/
def Obligations.PhaseTransitionsAreTheLegalOnes : Prop :=
  ∀ (s t : State) (c : BusCycle), Presents s c → step s = .next t →
    (s.fault = .noFault →
      (s.phase = .idle ∧ c.halted = true ∧ t.phase = .idle) ∨
      (s.phase = .idle ∧ c.halted = false ∧ t.phase = .armed) ∨
      (s.phase = .armed ∧ t.phase = .running) ∨ (s.phase = .running ∧ t.phase = .running)) ∧
    (s.fault ≠ .noFault → t.phase = s.phase)

/-! ## The Bank State Machine -/

/-- R132, R133, R134: in an iteration that the gate lets through, an access to a hotspot address in a direction the
scheme triggers on (either, by default) is its row's operation and selects that address's bank; the neighbours do not
qualify. -/
def Obligations.HotspotAccessSelectsItsBank : Prop :=
  ∀ (s : State) (c : BusCycle), Presents s c → gateOpen s c = true → ∃ t, step s = .next t ∧
    (s.scheme = .f8 → dirOk s.params.triggerF8 c.isWrite = true →
      (c.address = 0x1FF8 → SelectsBank s t c (.bankF80 c.halted c.isWrite) 0) ∧
      (c.address = 0x1FF9 → SelectsBank s t c (.bankF81 c.halted c.isWrite) 1) ∧
      (c.address = 0x1FF7 ∨ c.address = 0x1FFA → decodeBank (context s) c.word = .bankF8Nop c ∧ t.bank = s.bank)) ∧
    (s.scheme = .f6 → dirOk s.params.triggerF6 c.isWrite = true →
      (c.address = 0x1FF6 → SelectsBank s t c (.bankF60 c.halted c.isWrite) 0) ∧
      (c.address = 0x1FF7 → SelectsBank s t c (.bankF61 c.halted c.isWrite) 1) ∧
      (c.address = 0x1FF8 → SelectsBank s t c (.bankF62 c.halted c.isWrite) 2) ∧
      (c.address = 0x1FF9 → SelectsBank s t c (.bankF63 c.halted c.isWrite) 3) ∧
      (c.address = 0x1FF5 ∨ c.address = 0x1FFA → decodeBank (context s) c.word = .bankF6Nop c ∧ t.bank = s.bank)) ∧
    (s.scheme = .f4 → dirOk s.params.triggerF4 c.isWrite = true →
      (c.address = 0x1FF4 → SelectsBank s t c (.bankF40 c.halted c.isWrite) 0) ∧
      (c.address = 0x1FF5 → SelectsBank s t c (.bankF41 c.halted c.isWrite) 1) ∧
      (c.address = 0x1FF6 → SelectsBank s t c (.bankF42 c.halted c.isWrite) 2) ∧
      (c.address = 0x1FF7 → SelectsBank s t c (.bankF43 c.halted c.isWrite) 3) ∧
      (c.address = 0x1FF8 → SelectsBank s t c (.bankF44 c.halted c.isWrite) 4) ∧
      (c.address = 0x1FF9 → SelectsBank s t c (.bankF45 c.halted c.isWrite) 5) ∧
      (c.address = 0x1FFA → SelectsBank s t c (.bankF46 c.halted c.isWrite) 6) ∧
      (c.address = 0x1FFB → SelectsBank s t c (.bankF47 c.halted c.isWrite) 7) ∧
      (c.address = 0x1FF3 ∨ c.address = 0x1FFC → decodeBank (context s) c.word = .bankF4Nop c ∧ t.bank = s.bank))

/-- R137: a bus cycle that does not qualify is the default row's operation, which changes nothing, and leaves `BANK`
unchanged, in any phase; under `FE`, one for which
`FE_SELECT` answers none does, and still enters `HIST`. And the rule's worked example. -/
def Obligations.NonQualifyingCycleKeepsTheBank : Prop :=
  (∀ (s : State) (c : BusCycle), Presents s c →
    (s.scheme = .f8 ∨ s.scheme = .f6 ∨ s.scheme = .f4 → qualifies s.params s.scheme c = false →
      (s.scheme = .f8 → decodeBank (context s) c.word = .bankF8Nop c) ∧
      (s.scheme = .f6 → decodeBank (context s) c.word = .bankF6Nop c) ∧
      (s.scheme = .f4 → decodeBank (context s) c.word = .bankF4Nop c) ∧
      (∀ u, exec (decodeBank (context s) c.word) u = .next u) ∧
      ∃ t, step s = .next t ∧ t.bank = s.bank ∧ t.hist = s.hist) ∧
    (s.scheme = .fe → gateOpen s c = true →
      ∃ t, step s = .next t ∧ t.hist = ((c.address, c.isWrite) :: s.hist).take s.params.feDepth ∧
        (Config.feSelect t.hist = none → t.bank = s.bank))) ∧
  (∀ (p : Params) (h : Bool),
    qualifies p .f8 { address := 0x0000, isWrite := false, halted := h } = false ∧
    qualifies p .f8 { address := 0x1FF7, isWrite := true, halted := h } = false ∧
    qualifies p .f8 { address := 0xFFF8, isWrite := false, halted := h } = false)

/-- Under scheme `None` `BANK` is 0 before and after every step on a bus cycle, whatever the address, and the history
stays empty (spec/41_bank_state_machine.md section 2). -/
def Obligations.UnswitchedSchemeStaysInBankZero : Prop :=
  ∀ (s : State) (c : BusCycle), Inv s → configured s = true → s.scheme = .none → Presents s c →
    s.bank = 0 ∧ ∃ t, step s = .next t ∧ t.bank = 0 ∧ t.hist = []

/-- Under `FE` every cycle the gate lets through is fed to the history and decides the bank, whatever `FE_SELECT` is;
a held cycle is not fed; under any other scheme the history is never written (spec/41_bank_state_machine.md section
2, spec/10_state.md section 4, decision D7). -/
def Obligations.HistoryIsFedUnderFeOnly : Prop :=
  ∀ (s : State) (c : BusCycle), Presents s c → ∃ t, step s = .next t ∧
    (s.scheme = .fe → gateOpen s c = true →
      t.hist = ((c.address, c.isWrite) :: s.hist).take s.params.feDepth ∧
      t.bank = (Config.feSelect t.hist).getD s.bank) ∧
    (s.scheme = .fe → gateOpen s c = false → t.hist = s.hist ∧ t.bank = s.bank) ∧
    (s.scheme ≠ .fe → t.hist = s.hist)

/-- Under `FE`, whatever `FE_SELECT` is, with a 32768-byte image: the bank is stored as it comes; a served read drives
the byte of that bank if it is below 8 and raises `OutOfRange` if not; a write or a read outside the window does no
harm (spec/41_bank_state_machine.md section 2, spec/40_image_store.md section 2,
spec/93_implementation_defined.md U10). -/
def Obligations.FeServesOrFaultsByTheBankItSelects : Prop :=
  ∀ (s : State) (c : BusCycle), Presents s c → gateOpen s c = true → s.scheme = .fe → s.len = 32768 →
    ∃ t, step s = .next t ∧
      t.bank = (Config.feSelect (((c.address, c.isWrite) :: s.hist).take s.params.feDepth)).getD s.bank ∧
      (readInWindow s c = true → t.bank < 8 → t.fault = .noFault ∧
        t.out = .drive (s.image.read (t.bank * 4096 + c.address.toNat % 4096))) ∧
      (readInWindow s c = true → 8 ≤ t.bank → t.fault = .outOfRange ∧ t.out = .hiZ) ∧
      (readInWindow s c = false → t.fault = .noFault ∧ t.out = .hiZ)

/-- After any number of consumed bus cycles under `F8`, `F6` or `F4`, `BANK` is the bank of the latest qualifying one,
or what it was if none qualified; with tag and length agreeing no fault arises on the way
(spec/41_bank_state_machine.md section 3, spec/40_image_store.md section 2). -/
def Obligations.BankIsThatOfTheLatestQualifyingCycle : Prop :=
  ∀ (cs : List BusCycle) (s : State), s.loaded = true → s.fault = .noFault → s.phase ≠ .idle →
    (s.scheme = .f8 ∨ s.scheme = .f6 ∨ s.scheme = .f4) → tagMatchesLength s = true →
    s.bank < bankCount s.scheme → s.input = cs.map Event.cycle →
    ∃ t, runSteps cs.length s = .next t ∧ t.fault = .noFault ∧ t.bank = bankOfLatest s.params s.scheme s.bank cs

/-- The Bank State Machine does not test the window: two blocks that differ in their windows alone have the same bank,
history and phase after the same cycle (spec/41_bank_state_machine.md section 3). -/
def Obligations.WindowDoesNotAffectTheBank : Prop :=
  ∀ (s : State) (c : BusCycle) (mask value : Address), Presents s c →
    ∃ t u, step s = .next t ∧
      step { s with params := { s.params with windowMask := mask, windowMatch := value } } = .next u ∧
      t.bank = u.bank ∧ t.hist = u.hist ∧ t.phase = u.phase

/-! ## The Data Driver -/

/-- R164: a read inside the window, let through by the gate, drives the byte at (`BANK` as stage BANK leaves it,
`address & offset_mask`), or raises `OutOfRange` and drives nothing; with the default window the row's test is
`W & 0x1E000 = 0`; the last address of that window is offset 0xFFF, and 0x0800 is offset 0 of a 2048-byte image; and
the rule's worked example. -/
def Obligations.ServedReadDrivesTheImageByte : Prop :=
  (∀ (s : State) (c : BusCycle), Presents s c → gateOpen s c = true → c.isWrite = false →
    inWindow s.params c.address = true →
    let offset := (c.address &&& offsetMask s.scheme s.len).toNat
    let index := bankAfter s c * bankSize s.scheme s.len + offset
    decodeData (context s) c.word = .dataRead c.halted c.address ∧
    (offset < bankSize s.scheme s.len ∧ bankAfter s c < bankCount s.scheme ∧ index < s.len →
      ∃ t, step s = .next t ∧ t.out = .drive (s.image.read index) ∧ t.dout = s.image.read index ∧
        t.fault = .noFault ∧ t.bank = bankAfter s c ∧ t.hist = histAfter s c) ∧
    (¬ (offset < bankSize s.scheme s.len ∧ bankAfter s c < bankCount s.scheme ∧ index < s.len) →
      ∃ t, step s = .next t ∧ t.out = .hiZ ∧ t.dout = s.dout ∧ t.fault = .outOfRange ∧
        t.bank = bankAfter s c ∧ t.hist = histAfter s c)) ∧
  (∀ (x : DecodeContext) (w : Word), x.params = Config.params →
    ((∃ h a, decodeData x w = .dataRead h a) ↔ w &&& 0x1E000 = 0)) ∧
  (0x1FFF &&& offsetMask .f8 8192 = 0x0FFF ∧ 0x0800 &&& offsetMask .none 2048 = 0x0000) ∧
  (∀ s : State, s.loaded = true → s.fault = .noFault → s.scheme = .f8 → s.len = 8192 → s.params = Config.params →
    s.input = [.cycle { address := 0x1FF9, isWrite := false, halted := false },
      .cycle { address := 0x0000, isWrite := false, halted := false }] →
    ∃ t, runSteps 2 s = .next t ∧ t.out = .drive (s.image.read 4096))

/-- R165 and R166: a write, or a read outside the window, drives nothing, looks nothing up and raises nothing, in any
phase and with any bank, and stage BANK's writes stand; and R166's addresses under the default window, with its worked
example. -/
def Obligations.WritesAndOutsideReadsDriveNothing : Prop :=
  (∀ (s : State) (c : BusCycle), Presents s c → (c.isWrite = true ∨ inWindow s.params c.address = false) →
    (gateOpen s c = true → c.isWrite = true →
      decodeIteration (context s) c.word =
        [decodeGate (context s) c.word, decodeBank (context s) c.word, .dataWrite c.halted c.address, .rel c]) ∧
    (gateOpen s c = true → c.isWrite = false →
      decodeIteration (context s) c.word =
        [decodeGate (context s) c.word, decodeBank (context s) c.word, .dataOutside c, .rel c]) ∧
    (∀ u, exec (.dataWrite c.halted c.address) u = .next { u with out := .hiZ }) ∧
    (∀ u, exec (.dataOutside c) u = .next { u with out := .hiZ }) ∧
    ∃ t, step s = .next t ∧ t.out = .hiZ ∧ t.oe = false ∧ t.dout = s.dout ∧ t.fault = s.fault ∧
      (gateOpen s c = true → t.bank = bankAfter s c ∧ t.hist = histAfter s c) ∧
      (s.phase = .running → s.oe = false → s.scheme ≠ .fe → qualifies s.params s.scheme c = false → SameBlock s t)) ∧
  (inWindow Config.params 0x2000 = false ∧ inWindow Config.params 0xFFFF = false ∧
    inWindow Config.params 0x3FF8 = false ∧
    ∀ h, qualifies Config.params .f8 { address := 0x3FF8, isWrite := false, halted := h } = false)

/-- R167: after every step on a bus cycle no data line is driven, whatever the cycle did and whatever stopped it;
`DOUT` holds the byte driven, if one was, and else keeps its value. -/
def Obligations.LinesAreReleasedAfterEveryCycle : Prop :=
  ∀ (s : State) (c : BusCycle), Presents s c →
    (∃ is, decodeIteration (context s) c.word = is ++ [.rel c]) ∧
    (∀ u, exec (.rel c) u = .next { u with oe := false }) ∧
    ∃ t, step s = .next t ∧ t.oe = false ∧ dataLines t = none ∧
      (∀ b, t.out = .drive b → t.dout = b) ∧ (t.out = .hiZ → t.dout = s.dout)

/-- R168: the drive invariant, both ways. Its violation is the condition `BusContention`. -/
def Obligations.DriveHappensOnlyInAServedRead : Prop :=
  ∀ (s t : State) (c : BusCycle), Presents s c → step s = .next t →
    (∀ b, t.out = .drive b ↔
      s.fault = .noFault ∧
      (decodeGate (context s) c.word = .gateArm c.isWrite c.address ∨
        decodeGate (context s) c.word = .gateAdvance c ∨ decodeGate (context s) c.word = .gatePass c) ∧
      c.isWrite = false ∧ inWindow s.params c.address = true ∧
      byteAt s (bankAfter s c) (lookupOffset s.scheme s.len c.address) = .ok b) ∧
    ((∀ b, t.out ≠ .drive b) → t.out = .hiZ)

/-- R235: the byte an iteration drives is that of the bank the iteration leaves, in every scheme; and a read of a
hotspot address is served from the bank that address selects. -/
def Obligations.HotspotReadIsServedFromItsNewBank : Prop :=
  (∀ (s t : State) (c : BusCycle) (b : Byte), Presents s c → step s = .next t → t.out = .drive b →
    byteAt t t.bank (lookupOffset t.scheme t.len c.address) = .ok b) ∧
  ∀ (s : State) (c : BusCycle) (base : Nat), Presents s c → gateOpen s c = true → hotspotBase s.scheme = some base →
    qualifies s.params s.scheme c = true → c.isWrite = false → inWindow s.params c.address = true →
    tagMatchesLength s = true →
    ∃ t, step s = .next t ∧ t.bank = c.address.toNat - base ∧
      t.out = .drive (s.image.read ((c.address.toNat - base) * 4096 + c.address.toNat % 4096))

/-- Repeating a bus cycle in direct succession leaves the same state of the block and the same output, in phase
`Running` and but under `FE` (spec/20_memory.md section 2; log 18 for the phase). -/
def Obligations.RepeatedCycleChangesNothing : Prop :=
  ∀ (s t : State) (c : BusCycle), Presents s c → s.phase = .running → s.scheme ≠ .fe → step s = .next t →
    Presents t c → step t = .next { t with input := t.input.tail, events := t.events + 1 }

/-- With the default window, `a` and `a XOR 0x1000` are both inside the window or both outside, and read the same
offset (spec/20_memory.md section 6). -/
def Obligations.WindowMirrorsReadTheSameOffset : Prop :=
  ∀ (s : Scheme) (len : Nat) (a : Address),
    inWindow Config.params (a ^^^ 0x1000) = inWindow Config.params a ∧
    lookupOffset s len (a ^^^ 0x1000) = lookupOffset s len a

/-- The masked offset is always a valid offset of the bank, for any image that was loaded
(spec/40_image_store.md section 2, spec/00_scope.md section 4, decisions D3 and D4). -/
def Obligations.MaskedOffsetIsInsideTheBank : Prop :=
  ∀ (s : Scheme) (len : Nat) (a : Address), supportedSize len = true →
    lookupOffset s len a < bankSize s len ∧
    (∀ offset, offset < bankSize s len → lookupOffset s len (BitVec.ofNat 16 offset) = offset)

/-- What is served depends on no byte of the image outside the selected bank (spec/20_memory.md section 4). -/
def Obligations.OtherBanksDoNotAffectTheOutput : Prop :=
  ∀ (s : State) (c : BusCycle) (m : Memory), Presents s c →
    (∀ offset, offset < bankSize s.scheme s.len →
      m.read (bankAfter s c * bankSize s.scheme s.len + offset)
        = s.image.read (bankAfter s c * bankSize s.scheme s.len + offset)) →
    ∃ t u, step s = .next t ∧ step { s with image := m } = .next u ∧ u = { t with image := m }

/-! ## Faults -/

/-- A fault is precise: when the lookup of a served read fails, the iteration's writes of `PHASE`, `BANK` and `HIST`
stay, `FAULT` is `OutOfRange`, nothing is driven and nothing else changes (spec/60_exceptions.md sections 2 and 3). -/
def Obligations.OutOfRangeIsPrecise : Prop :=
  ∀ (s : State) (c : BusCycle) (k : FaultKind), Presents s c → gateOpen s c = true → readInWindow s c = true →
    lookupAfter s c = .error k →
    step s = .next { s with
      phase := phaseAfter s.phase, bank := bankAfter s c, hist := histAfter s c, fault := .outOfRange, oe := false
      out := .hiZ, input := s.input.tail, events := s.events + 1 }

/-- With tag and length agreeing, and but under `FE`, no iteration of a block that has not faulted raises a fault
(spec/40_image_store.md section 2, spec/95_test_vectors.md section 4, property 6). -/
def Obligations.MatchingImageNeverFaults : Prop :=
  ∀ (s : State) (c : BusCycle), Inv s → Presents s c → s.fault = .noFault → s.scheme ≠ .fe →
    tagMatchesLength s = true → ∃ t, step s = .next t ∧ t.fault = .noFault ∧ tagMatchesLength t = true

/-- An iteration sets `FAULT` to nothing but `OutOfRange`, and only from `NoFault` (spec/60_exceptions.md section 1). -/
def Obligations.IterationRaisesOnlyOutOfRange : Prop :=
  ∀ (s t : State) (c : BusCycle), Presents s c → step s = .next t → t.fault ≠ s.fault →
    s.fault = .noFault ∧ t.fault = .outOfRange ∧ readInWindow s c = true ∧ gateOpen s c = true ∧
    lookupAfter s c = .error .outOfRange

/-- A power cycle is the one way back: it clears `FAULT`, returns `PHASE` to `Idle`, and keeps the persisted artifact
and the parameters alone; no other step of a loaded block clears a fault or makes the phase `Idle`
(spec/60_exceptions.md sections 2 and 5, spec/70_reset_and_hazards.md section 1, decision D26). -/
def Obligations.OnlyAPowerCycleResets : Prop :=
  (∀ s : State, PowersOff s →
    ∃ t, step s = .next t ∧ t.phase = .idle ∧ t.fault = .noFault ∧ t.oe = false ∧ t.hist = [] ∧ t.loaded = false ∧
      t.out = .hiZ ∧ t.persisted = s.persisted ∧ t.params = s.params) ∧
  (∀ s t : State, s.loaded = true → step s = .next t →
    (s.fault ≠ .noFault ∧ t.fault = .noFault) ∨ (s.phase ≠ .idle ∧ t.phase = .idle) → PowersOff s)

/-! ## The Image Store -/

/-- R201 and R202: the two faults of the load, exactly when each is raised, that nothing else happens (the configuration
is not established), that no other step raises one, and that a block that has one serves nothing. -/
def Obligations.LoadRefusesWhatItCannotServe : Prop :=
  (∀ s : State, s.loaded = false → s.fault = .noFault → ∃ t, step s = .next t ∧
    (t.fault = .invalidImageSize ↔ s.persisted.bytes.length ∉ [2048, 4096, 8192, 16384, 32768]) ∧
    (t.fault = .ambiguousScheme ↔ s.persisted.bytes.length = 32768 ∧ s.persisted.tag = none) ∧
    (t.fault = .noFault ∨ t = { s with loaded := true, fault := t.fault, out := .hiZ })) ∧
  (∀ (s t : State) (k : FaultKind), k = .invalidImageSize ∨ k = .ambiguousScheme → s.loaded = true →
    step s = .next t → t.fault = k → s.fault = k) ∧
  (∀ (s : State) (c : BusCycle), s.fault = .invalidImageSize ∨ s.fault = .ambiguousScheme → Presents s c →
    ∃ t, step s = .next t ∧ t.out = .hiZ ∧ t.fault = s.fault ∧ t.image = s.image)

/-- A load that succeeds establishes the image, the length, the scheme (the tag, which is trusted, or the one the
length infers) and the reset bank, and changes nothing else (spec/40_image_store.md section 1,
spec/70_reset_and_hazards.md section 1, decisions D20 and D21). -/
def Obligations.LoadEstablishesTheConfiguration : Prop :=
  ∀ (s : State) (sch : Scheme), s.loaded = false →
    s.persisted.bytes.length ∈ [2048, 4096, 8192, 16384, 32768] →
    (s.persisted.tag = some sch ∨
      (s.persisted.tag = none ∧
        (s.persisted.bytes.length, sch) ∈ [(2048, Scheme.none), (4096, .none), (8192, .f8), (16384, .f6)])) →
    step s = .next { s with
      loaded := true, image := Memory.ofBytes s.persisted.bytes, len := s.persisted.bytes.length, scheme := sch
      bank := resetBank s.params sch }

/-- R116: every byte given to the load is returned unchanged by `byte_at`, for every valid location. -/
def Obligations.EveryLoadedByteIsReturned : Prop :=
  ∀ s t : State, s.loaded = false → s.fault = .noFault → step s = .next t → t.fault = .noFault →
    ∀ (i : Nat) (hi : i < s.persisted.bytes.length), i < bankCount t.scheme * bankSize t.scheme t.len →
      byteAt t (i / bankSize t.scheme t.len) (i % bankSize t.scheme t.len) = .ok s.persisted.bytes[i]

/-- R118: no iteration writes `IMAGE`, `LEN` or `SCHEME`, nor the parameters, and no operation does; so `byte_at` gives
the same result for the same operands ever after. -/
def Obligations.ConfigurationIsImmutable : Prop :=
  (∀ (i : Instr) (s t : State), exec i s = .next t →
    t.image = s.image ∧ t.len = s.len ∧ t.scheme = s.scheme ∧ t.params = s.params ∧ t.persisted = s.persisted ∧
    t.loaded = s.loaded) ∧
  (∀ (cs : List BusCycle) (s : State), s.loaded = true → s.input = cs.map Event.cycle →
    ∃ t, runSteps cs.length s = .next t ∧ t.image = s.image ∧ t.len = s.len ∧ t.scheme = s.scheme ∧
      t.params = s.params ∧ ∀ bank offset, byteAt t bank offset = byteAt s bank offset)

/-- The tests of `byte_at`, none of which clamps (spec/40_image_store.md section 2, decision D10), and the examples of
spec/95_test_vectors.md section 2.2 that need no byte of the image. -/
def Obligations.ByteAtChecksEveryBound : Prop :=
  (∀ (s : State) (bank offset : Nat),
    (offset < bankSize s.scheme s.len ∧ bank < bankCount s.scheme ∧ bank * bankSize s.scheme s.len + offset < s.len →
      byteAt s bank offset = .ok (s.image.read (bank * bankSize s.scheme s.len + offset))) ∧
    (bankSize s.scheme s.len ≤ offset ∨ bankCount s.scheme ≤ bank ∨
        s.len ≤ bank * bankSize s.scheme s.len + offset →
      byteAt s bank offset = .error .outOfRange)) ∧
  (∀ s : State, s.scheme = .f8 → s.len = 8192 →
    byteAt s 0 0x1000 = .error .outOfRange ∧ byteAt s 2 0 = .error .outOfRange ∧
    byteAt s 1 0x0FFF = .ok (s.image.read 8191))

/-- What power-on leaves (spec/10_state.md section 7, spec/70_reset_and_hazards.md section 1). That the artifact is
empty is the model's choice (log 10), as are the empty image (log 7) and the output before the first iteration
(log 15). `DOUT`, `BANK` and `SCHEME` are free and nothing is said of them. -/
def Obligations.PowerOnStateIsAsTheSpecSays : Prop :=
  State.reset.phase = .idle ∧ State.reset.fault = .noFault ∧ State.reset.oe = false ∧ State.reset.hist = [] ∧
  dataLines State.reset = none ∧ State.reset.loaded = false ∧ State.reset.out = .hiZ ∧
  State.reset.params.windowMask = 0xE000 ∧ State.reset.params.windowMatch = 0x0000 ∧
  State.reset.params.triggerF8 = .either ∧ State.reset.params.triggerF6 = .either ∧
  State.reset.params.triggerF4 = .either ∧ 1 ≤ State.reset.params.feDepth
end

