-- ==== Sys2Proof/Laws/Decode.lean ====
section
/-! SUPPORT. What a row's mask and match say of the fields of a bus cycle, and that every stage's table selects an
operation whose row holds and whose word is the one decoded. -/

namespace Sys2Proof

open Sys2Proof.Machine

/-! ## The word -/

theorem BusCycle.word_toNat (c : BusCycle) :
    c.word.toNat = c.halted.toNat * 2 ^ 17 + c.isWrite.toNat * 2 ^ 16 + c.address.toNat := by
  rcases c with ⟨a, w, h⟩
  have ha : a.toNat < 2 ^ 16 := a.isLt
  have hw : w.toNat < 2 ^ 1 := by cases w <;> decide
  simp only [BusCycle.word, BitVec.toNat_append, BitVec.toNat_ofBool]
  rw [Nat.shiftLeft_eq, Nat.shiftLeft_eq, Nat.mul_comm h.toNat (2 ^ 1), Nat.mul_comm _ (2 ^ 16),
    ← Nat.two_pow_add_eq_or_of_lt ha, ← Nat.two_pow_add_eq_or_of_lt hw]
  omega

theorem BusCycle.word_getLsbD (c : BusCycle) (i : Nat) :
    c.word.getLsbD i =
      if i < 16 then c.address.getLsbD i else if i = 16 then c.isWrite else if i = 17 then c.halted else false := by
  rcases c with ⟨a, w, h⟩
  simp only [BusCycle.word, BitVec.getLsbD_append, BitVec.getLsbD_ofBool]
  by_cases h1 : i < 16
  · simp [h1]
  by_cases h2 : i = 16
  · simp [h2]
  by_cases h3 : i = 17
  · simp [h3]
  have h4 : ¬ i - 16 < 1 := by omega
  have h5 : i - 16 - 1 ≠ 0 := by omega
  simp [h1, h2, h3, h4, h5]

@[simp] theorem BusCycle.ofWord_word (c : BusCycle) : BusCycle.ofWord c.word = c := by
  rcases c with ⟨a, w, h⟩
  simp only [BusCycle.ofWord, BusCycle.word_getLsbD, BusCycle.mk.injEq]
  refine ⟨?_, by simp, by simp⟩
  ext i hi
  simp [BusCycle.word_getLsbD, hi, ← BitVec.getLsbD_eq_getElem]

@[simp] theorem BusCycle.word_ofWord (w : Word) : (BusCycle.ofWord w).word = w := by
  apply BitVec.eq_of_getLsbD_eq
  intro i hi
  rw [BusCycle.word_getLsbD]
  simp only [BusCycle.ofWord, BitVec.getLsbD_extractLsb', Nat.zero_add]
  split
  · rename_i h; simp [h]
  · split
    · rename_i h; rw [h]
    · split
      · rename_i h; rw [h]
      · omega

/-! ## The rows -/

/-- Flipping bit 17 of a word flips the halt sample and nothing else (R82). -/
theorem BusCycle.ofWord_flip_halted (w : Word) :
    BusCycle.ofWord (w ^^^ 0x20000) = { BusCycle.ofWord w with halted := !(BusCycle.ofWord w).halted } := by
  simp [BusCycle.ofWord, BitVec.extractLsb'_xor]

theorem rowHits_bit17 (c : BusCycle) : rowHits 0x20000 0x20000 c.word = c.halted := by
  have hm : (0x20000 : Word) = BitVec.twoPow 18 17 := by decide
  have hb : c.word.getLsbD 17 = c.halted := by rw [BusCycle.word_getLsbD]; simp
  simp only [rowHits, hm, BitVec.and_twoPow, hb]
  cases c.halted
  · decide
  · decide

theorem rowHits_bit16 (c : BusCycle) : rowHits 0x10000 0x10000 c.word = c.isWrite := by
  have hm : (0x10000 : Word) = BitVec.twoPow 18 16 := by decide
  have hb : c.word.getLsbD 16 = c.isWrite := by rw [BusCycle.word_getLsbD]; simp
  simp only [rowHits, hm, BitVec.and_twoPow, hb]
  cases c.isWrite
  · decide
  · decide

/-- R92: the row of a hotspot matches exactly the cycles at its address in a direction the scheme triggers on. -/
theorem hotspotHits_word (t : TriggerDir) (a : Address) (c : BusCycle) :
    hotspotHits t a c.word = (c.address == a && dirOk t c.isWrite) := by
  have hw := c.word_toNat
  have ha := a.isLt
  have hc := c.address.isLt
  rw [Bool.eq_iff_iff]
  simp only [hotspotHits, rowHits, beq_iff_eq, Bool.and_eq_true, ← BitVec.toNat_inj, BitVec.toNat_and]
  cases t <;> simp only [hotspotMask, hotspotMatch, dirOk]
  · rw [show (0x0FFFF : Word).toNat = 2 ^ 16 - 1 by decide, Nat.and_two_pow_sub_one_eq_mod, hw,
      BitVec.toNat_setWidth]
    simp only [and_true]
    cases c.halted <;> cases c.isWrite <;> simp only [Bool.toNat_true, Bool.toNat_false] <;> omega
  · rw [show (0x1FFFF : Word).toNat = 2 ^ 17 - 1 by decide, Nat.and_two_pow_sub_one_eq_mod, hw,
      BitVec.toNat_setWidth]
    cases c.halted <;> cases c.isWrite <;> simp only [Bool.toNat_true, Bool.toNat_false, Bool.not_true, Bool.not_false] <;>
      simp <;> omega
  · rw [show (0x1FFFF : Word).toNat = 2 ^ 17 - 1 by decide, Nat.and_two_pow_sub_one_eq_mod, hw, BitVec.toNat_or,
      BitVec.toNat_setWidth, show (0x10000 : Word).toNat = 2 ^ 16 * 1 by decide,
      Nat.mod_eq_of_lt (show a.toNat < 2 ^ 18 by omega), ← Nat.two_pow_add_eq_or_of_lt ha]
    cases c.halted <;> cases c.isWrite <;> simp only [Bool.toNat_true, Bool.toNat_false] <;> simp <;> omega

/-- R93: the row `DATA_READ` matches exactly the reads inside the window. -/
theorem rowHits_window (p : Params) (c : BusCycle) :
    rowHits (0x10000 ||| p.windowMask.setWidth 18) (p.windowMatch.setWidth 18) c.word
      = (!c.isWrite && inWindow p c.address) := by
  have hm : (0x10000 : Word) = BitVec.twoPow 18 16 := by decide
  rw [Bool.eq_iff_iff]
  simp only [rowHits, inWindow, beq_iff_eq, Bool.and_eq_true, Bool.not_eq_true']
  constructor
  · intro h
    have bit := fun i => congrArg (fun v : Word => v.getLsbD i) h
    simp only [BitVec.getLsbD_and, BitVec.getLsbD_or, BitVec.getLsbD_setWidth, BusCycle.word_getLsbD, hm,
      BitVec.getLsbD_twoPow] at bit
    refine ⟨by simpa using bit 16, ?_⟩
    apply BitVec.eq_of_getLsbD_eq
    intro i hi
    have := bit i
    simpa [hi, show i ≠ 16 by omega, show i < 18 by omega, show ¬ 16 = i by omega] using this
  · rintro ⟨hw, hin⟩
    apply BitVec.eq_of_getLsbD_eq
    intro i hi
    have bit := congrArg (fun v : Address => v.getLsbD i) hin
    simp only [BitVec.getLsbD_and] at bit
    simp only [BitVec.getLsbD_and, BitVec.getLsbD_or, BitVec.getLsbD_setWidth, BusCycle.word_getLsbD, hm,
      BitVec.getLsbD_twoPow, hi, decide_true, Bool.true_and]
    by_cases h16 : i < 16
    · simpa [h16, show i ≠ 16 by omega, show ¬ 16 = i by omega] using bit
    · have hv : p.windowMatch.getLsbD i = false := BitVec.getLsbD_of_ge _ _ (by omega)
      have hk : p.windowMask.getLsbD i = false := BitVec.getLsbD_of_ge _ _ (by omega)
      rw [hv, hk]
      by_cases h : i = 16
      · subst h; simp [hw]
      · simp [show ¬ 16 = i by omega]

/-! ## The stages' tables on a bus cycle -/

theorem decodeGate_word (x : DecodeContext) (c : BusCycle) :
    decodeGate x c.word =
      if x.fault ≠ .noFault then .gateStopped c
      else match x.phase with
        | .idle => if c.halted then .gateHold c.isWrite c.address else .gateArm c.isWrite c.address
        | .armed => .gateAdvance c
        | .running => .gatePass c := by
  simp only [decodeGate, rowHits_bit17, BusCycle.ofWord_word, bne_iff_ne] <;> rfl

theorem decodeF8_word (t : TriggerDir) (c : BusCycle) :
    decodeF8 t c.word =
      if c.address = 0x1FF8 ∧ dirOk t c.isWrite = true then .bankF80 c.halted c.isWrite
      else if c.address = 0x1FF9 ∧ dirOk t c.isWrite = true then .bankF81 c.halted c.isWrite
      else .bankF8Nop c := by
  simp [decodeF8, hotspotHits_word]

theorem decodeF6_word (t : TriggerDir) (c : BusCycle) :
    decodeF6 t c.word =
      if c.address = 0x1FF6 ∧ dirOk t c.isWrite = true then .bankF60 c.halted c.isWrite
      else if c.address = 0x1FF7 ∧ dirOk t c.isWrite = true then .bankF61 c.halted c.isWrite
      else if c.address = 0x1FF8 ∧ dirOk t c.isWrite = true then .bankF62 c.halted c.isWrite
      else if c.address = 0x1FF9 ∧ dirOk t c.isWrite = true then .bankF63 c.halted c.isWrite
      else .bankF6Nop c := by
  simp [decodeF6, hotspotHits_word]

theorem decodeF4_word (t : TriggerDir) (c : BusCycle) :
    decodeF4 t c.word =
      if c.address = 0x1FF4 ∧ dirOk t c.isWrite = true then .bankF40 c.halted c.isWrite
      else if c.address = 0x1FF5 ∧ dirOk t c.isWrite = true then .bankF41 c.halted c.isWrite
      else if c.address = 0x1FF6 ∧ dirOk t c.isWrite = true then .bankF42 c.halted c.isWrite
      else if c.address = 0x1FF7 ∧ dirOk t c.isWrite = true then .bankF43 c.halted c.isWrite
      else if c.address = 0x1FF8 ∧ dirOk t c.isWrite = true then .bankF44 c.halted c.isWrite
      else if c.address = 0x1FF9 ∧ dirOk t c.isWrite = true then .bankF45 c.halted c.isWrite
      else if c.address = 0x1FFA ∧ dirOk t c.isWrite = true then .bankF46 c.halted c.isWrite
      else if c.address = 0x1FFB ∧ dirOk t c.isWrite = true then .bankF47 c.halted c.isWrite
      else .bankF4Nop c := by
  simp [decodeF4, hotspotHits_word]

theorem decodeData_word (x : DecodeContext) (c : BusCycle) :
    decodeData x c.word =
      if c.isWrite then .dataWrite c.halted c.address
      else if inWindow x.params c.address then .dataRead c.halted c.address
      else .dataOutside c := by
  simp only [decodeData, rowHits_bit16, rowHits_window, BusCycle.ofWord_word]
  cases c.isWrite <;> simp

@[simp] theorem decodeRel_word (c : BusCycle) : decodeRel c.word = .rel c := by
  simp [decodeRel]

@[simp] theorem encode_eq (i : Instr) : encode i = i.cycle.word := rfl

/-! ## Qualifies, address by address (R61, R136) -/

theorem address_eq_iff (a : Address) (n : Nat) (h : n < 2 ^ 16) : a = BitVec.ofNat 16 n ↔ a.toNat = n := by
  rw [← BitVec.toNat_inj, BitVec.toNat_ofNat, Nat.mod_eq_of_lt h]

theorem qualifies_f8 (p : Params) (c : BusCycle) :
    qualifies p .f8 c = true ↔
      (c.address = 0x1FF8 ∨ c.address = 0x1FF9) ∧ dirOk p.triggerF8 c.isWrite = true := by
  simp only [qualifies, hotspotBase, triggerDir, Bool.and_eq_true, decide_eq_true_eq]
  refine and_congr_left fun _ => ?_
  simp only [bankCount, show ∀ n, (OfNat.ofNat n : Address) = BitVec.ofNat 16 n from fun _ => rfl]
  repeat rw [address_eq_iff _ _ (by decide)]
  omega

theorem qualifies_f6 (p : Params) (c : BusCycle) :
    qualifies p .f6 c = true ↔
      (c.address = 0x1FF6 ∨ c.address = 0x1FF7 ∨ c.address = 0x1FF8 ∨ c.address = 0x1FF9)
        ∧ dirOk p.triggerF6 c.isWrite = true := by
  simp only [qualifies, hotspotBase, triggerDir, Bool.and_eq_true, decide_eq_true_eq]
  refine and_congr_left fun _ => ?_
  simp only [bankCount, show ∀ n, (OfNat.ofNat n : Address) = BitVec.ofNat 16 n from fun _ => rfl]
  repeat rw [address_eq_iff _ _ (by decide)]
  omega

theorem qualifies_f4 (p : Params) (c : BusCycle) :
    qualifies p .f4 c = true ↔
      (c.address = 0x1FF4 ∨ c.address = 0x1FF5 ∨ c.address = 0x1FF6 ∨ c.address = 0x1FF7
        ∨ c.address = 0x1FF8 ∨ c.address = 0x1FF9 ∨ c.address = 0x1FFA ∨ c.address = 0x1FFB)
        ∧ dirOk p.triggerF4 c.isWrite = true := by
  simp only [qualifies, hotspotBase, triggerDir, Bool.and_eq_true, decide_eq_true_eq]
  refine and_congr_left fun _ => ?_
  simp only [bankCount, show ∀ n, (OfNat.ofNat n : Address) = BitVec.ofNat 16 n from fun _ => rfl]
  repeat rw [address_eq_iff _ _ (by decide)]
  omega

end Sys2Proof
end

