-- ==== Sys2Proof/Laws/State.lean ====
section
/-! SUPPORT. One lemma per field per update of State, true by rfl, so that no proof unfolds a record update. -/

namespace Sys2Proof.Machine

/-! ### setPhase -/

@[simp] theorem setPhase_image (v : Phase) (s : State) : (setPhase v s).image = s.image := rfl
@[simp] theorem setPhase_len (v : Phase) (s : State) : (setPhase v s).len = s.len := rfl
@[simp] theorem setPhase_scheme (v : Phase) (s : State) : (setPhase v s).scheme = s.scheme := rfl
@[simp] theorem setPhase_bank (v : Phase) (s : State) : (setPhase v s).bank = s.bank := rfl
@[simp] theorem setPhase_phase (v : Phase) (s : State) : (setPhase v s).phase = v := rfl
@[simp] theorem setPhase_fault (v : Phase) (s : State) : (setPhase v s).fault = s.fault := rfl
@[simp] theorem setPhase_dout (v : Phase) (s : State) : (setPhase v s).dout = s.dout := rfl
@[simp] theorem setPhase_oe (v : Phase) (s : State) : (setPhase v s).oe = s.oe := rfl
@[simp] theorem setPhase_hist (v : Phase) (s : State) : (setPhase v s).hist = s.hist := rfl
@[simp] theorem setPhase_params (v : Phase) (s : State) : (setPhase v s).params = s.params := rfl
@[simp] theorem setPhase_persisted (v : Phase) (s : State) : (setPhase v s).persisted = s.persisted := rfl
@[simp] theorem setPhase_loaded (v : Phase) (s : State) : (setPhase v s).loaded = s.loaded := rfl
@[simp] theorem setPhase_input (v : Phase) (s : State) : (setPhase v s).input = s.input := rfl
@[simp] theorem setPhase_events (v : Phase) (s : State) : (setPhase v s).events = s.events := rfl
@[simp] theorem setPhase_out (v : Phase) (s : State) : (setPhase v s).out = s.out := rfl

/-! ### selectBank -/

@[simp] theorem selectBank_image (n : Nat) (s : State) : (selectBank n s).image = s.image := rfl
@[simp] theorem selectBank_len (n : Nat) (s : State) : (selectBank n s).len = s.len := rfl
@[simp] theorem selectBank_scheme (n : Nat) (s : State) : (selectBank n s).scheme = s.scheme := rfl
@[simp] theorem selectBank_bank (n : Nat) (s : State) : (selectBank n s).bank = n := rfl
@[simp] theorem selectBank_phase (n : Nat) (s : State) : (selectBank n s).phase = s.phase := rfl
@[simp] theorem selectBank_fault (n : Nat) (s : State) : (selectBank n s).fault = s.fault := rfl
@[simp] theorem selectBank_dout (n : Nat) (s : State) : (selectBank n s).dout = s.dout := rfl
@[simp] theorem selectBank_oe (n : Nat) (s : State) : (selectBank n s).oe = s.oe := rfl
@[simp] theorem selectBank_hist (n : Nat) (s : State) : (selectBank n s).hist = s.hist := rfl
@[simp] theorem selectBank_params (n : Nat) (s : State) : (selectBank n s).params = s.params := rfl
@[simp] theorem selectBank_persisted (n : Nat) (s : State) : (selectBank n s).persisted = s.persisted := rfl
@[simp] theorem selectBank_loaded (n : Nat) (s : State) : (selectBank n s).loaded = s.loaded := rfl
@[simp] theorem selectBank_input (n : Nat) (s : State) : (selectBank n s).input = s.input := rfl
@[simp] theorem selectBank_events (n : Nat) (s : State) : (selectBank n s).events = s.events := rfl
@[simp] theorem selectBank_out (n : Nat) (s : State) : (selectBank n s).out = s.out := rfl

/-! ### driveNothing -/

@[simp] theorem driveNothing_image (s : State) : (driveNothing s).image = s.image := rfl
@[simp] theorem driveNothing_len (s : State) : (driveNothing s).len = s.len := rfl
@[simp] theorem driveNothing_scheme (s : State) : (driveNothing s).scheme = s.scheme := rfl
@[simp] theorem driveNothing_bank (s : State) : (driveNothing s).bank = s.bank := rfl
@[simp] theorem driveNothing_phase (s : State) : (driveNothing s).phase = s.phase := rfl
@[simp] theorem driveNothing_fault (s : State) : (driveNothing s).fault = s.fault := rfl
@[simp] theorem driveNothing_dout (s : State) : (driveNothing s).dout = s.dout := rfl
@[simp] theorem driveNothing_oe (s : State) : (driveNothing s).oe = s.oe := rfl
@[simp] theorem driveNothing_hist (s : State) : (driveNothing s).hist = s.hist := rfl
@[simp] theorem driveNothing_params (s : State) : (driveNothing s).params = s.params := rfl
@[simp] theorem driveNothing_persisted (s : State) : (driveNothing s).persisted = s.persisted := rfl
@[simp] theorem driveNothing_loaded (s : State) : (driveNothing s).loaded = s.loaded := rfl
@[simp] theorem driveNothing_input (s : State) : (driveNothing s).input = s.input := rfl
@[simp] theorem driveNothing_events (s : State) : (driveNothing s).events = s.events := rfl
@[simp] theorem driveNothing_out (s : State) : (driveNothing s).out = .hiZ := rfl

/-! ### driveByte -/

@[simp] theorem driveByte_image (b : Byte) (s : State) : (driveByte b s).image = s.image := rfl
@[simp] theorem driveByte_len (b : Byte) (s : State) : (driveByte b s).len = s.len := rfl
@[simp] theorem driveByte_scheme (b : Byte) (s : State) : (driveByte b s).scheme = s.scheme := rfl
@[simp] theorem driveByte_bank (b : Byte) (s : State) : (driveByte b s).bank = s.bank := rfl
@[simp] theorem driveByte_phase (b : Byte) (s : State) : (driveByte b s).phase = s.phase := rfl
@[simp] theorem driveByte_fault (b : Byte) (s : State) : (driveByte b s).fault = s.fault := rfl
@[simp] theorem driveByte_dout (b : Byte) (s : State) : (driveByte b s).dout = b := rfl
@[simp] theorem driveByte_oe (b : Byte) (s : State) : (driveByte b s).oe = true := rfl
@[simp] theorem driveByte_hist (b : Byte) (s : State) : (driveByte b s).hist = s.hist := rfl
@[simp] theorem driveByte_params (b : Byte) (s : State) : (driveByte b s).params = s.params := rfl
@[simp] theorem driveByte_persisted (b : Byte) (s : State) : (driveByte b s).persisted = s.persisted := rfl
@[simp] theorem driveByte_loaded (b : Byte) (s : State) : (driveByte b s).loaded = s.loaded := rfl
@[simp] theorem driveByte_input (b : Byte) (s : State) : (driveByte b s).input = s.input := rfl
@[simp] theorem driveByte_events (b : Byte) (s : State) : (driveByte b s).events = s.events := rfl
@[simp] theorem driveByte_out (b : Byte) (s : State) : (driveByte b s).out = .drive b := rfl

/-! ### release -/

@[simp] theorem release_image (s : State) : (release s).image = s.image := rfl
@[simp] theorem release_len (s : State) : (release s).len = s.len := rfl
@[simp] theorem release_scheme (s : State) : (release s).scheme = s.scheme := rfl
@[simp] theorem release_bank (s : State) : (release s).bank = s.bank := rfl
@[simp] theorem release_phase (s : State) : (release s).phase = s.phase := rfl
@[simp] theorem release_fault (s : State) : (release s).fault = s.fault := rfl
@[simp] theorem release_dout (s : State) : (release s).dout = s.dout := rfl
@[simp] theorem release_oe (s : State) : (release s).oe = false := rfl
@[simp] theorem release_hist (s : State) : (release s).hist = s.hist := rfl
@[simp] theorem release_params (s : State) : (release s).params = s.params := rfl
@[simp] theorem release_persisted (s : State) : (release s).persisted = s.persisted := rfl
@[simp] theorem release_loaded (s : State) : (release s).loaded = s.loaded := rfl
@[simp] theorem release_input (s : State) : (release s).input = s.input := rfl
@[simp] theorem release_events (s : State) : (release s).events = s.events := rfl
@[simp] theorem release_out (s : State) : (release s).out = s.out := rfl

/-! ### raise -/

@[simp] theorem raise_image (k : FaultKind) (s : State) : (raise k s).image = s.image := rfl
@[simp] theorem raise_len (k : FaultKind) (s : State) : (raise k s).len = s.len := rfl
@[simp] theorem raise_scheme (k : FaultKind) (s : State) : (raise k s).scheme = s.scheme := rfl
@[simp] theorem raise_bank (k : FaultKind) (s : State) : (raise k s).bank = s.bank := rfl
@[simp] theorem raise_phase (k : FaultKind) (s : State) : (raise k s).phase = s.phase := rfl
@[simp] theorem raise_fault (k : FaultKind) (s : State) : (raise k s).fault = k := rfl
@[simp] theorem raise_dout (k : FaultKind) (s : State) : (raise k s).dout = s.dout := rfl
@[simp] theorem raise_oe (k : FaultKind) (s : State) : (raise k s).oe = s.oe := rfl
@[simp] theorem raise_hist (k : FaultKind) (s : State) : (raise k s).hist = s.hist := rfl
@[simp] theorem raise_params (k : FaultKind) (s : State) : (raise k s).params = s.params := rfl
@[simp] theorem raise_persisted (k : FaultKind) (s : State) : (raise k s).persisted = s.persisted := rfl
@[simp] theorem raise_loaded (k : FaultKind) (s : State) : (raise k s).loaded = s.loaded := rfl
@[simp] theorem raise_input (k : FaultKind) (s : State) : (raise k s).input = s.input := rfl
@[simp] theorem raise_events (k : FaultKind) (s : State) : (raise k s).events = s.events := rfl
@[simp] theorem raise_out (k : FaultKind) (s : State) : (raise k s).out = .hiZ := rfl

/-! ### establish -/

@[simp] theorem establish_image (l : Loaded) (s : State) : (establish l s).image = l.image := rfl
@[simp] theorem establish_len (l : Loaded) (s : State) : (establish l s).len = l.len := rfl
@[simp] theorem establish_scheme (l : Loaded) (s : State) : (establish l s).scheme = l.scheme := rfl
@[simp] theorem establish_bank (l : Loaded) (s : State) : (establish l s).bank = resetBank s.params l.scheme := rfl
@[simp] theorem establish_phase (l : Loaded) (s : State) : (establish l s).phase = s.phase := rfl
@[simp] theorem establish_fault (l : Loaded) (s : State) : (establish l s).fault = s.fault := rfl
@[simp] theorem establish_dout (l : Loaded) (s : State) : (establish l s).dout = s.dout := rfl
@[simp] theorem establish_oe (l : Loaded) (s : State) : (establish l s).oe = s.oe := rfl
@[simp] theorem establish_hist (l : Loaded) (s : State) : (establish l s).hist = s.hist := rfl
@[simp] theorem establish_params (l : Loaded) (s : State) : (establish l s).params = s.params := rfl
@[simp] theorem establish_persisted (l : Loaded) (s : State) : (establish l s).persisted = s.persisted := rfl
@[simp] theorem establish_loaded (l : Loaded) (s : State) : (establish l s).loaded = s.loaded := rfl
@[simp] theorem establish_input (l : Loaded) (s : State) : (establish l s).input = s.input := rfl
@[simp] theorem establish_events (l : Loaded) (s : State) : (establish l s).events = s.events := rfl
@[simp] theorem establish_out (l : Loaded) (s : State) : (establish l s).out = s.out := rfl

/-! ### consumeEvent -/

@[simp] theorem consumeEvent_image (s : State) : (consumeEvent s).image = s.image := rfl
@[simp] theorem consumeEvent_len (s : State) : (consumeEvent s).len = s.len := rfl
@[simp] theorem consumeEvent_scheme (s : State) : (consumeEvent s).scheme = s.scheme := rfl
@[simp] theorem consumeEvent_bank (s : State) : (consumeEvent s).bank = s.bank := rfl
@[simp] theorem consumeEvent_phase (s : State) : (consumeEvent s).phase = s.phase := rfl
@[simp] theorem consumeEvent_fault (s : State) : (consumeEvent s).fault = s.fault := rfl
@[simp] theorem consumeEvent_dout (s : State) : (consumeEvent s).dout = s.dout := rfl
@[simp] theorem consumeEvent_oe (s : State) : (consumeEvent s).oe = s.oe := rfl
@[simp] theorem consumeEvent_hist (s : State) : (consumeEvent s).hist = s.hist := rfl
@[simp] theorem consumeEvent_params (s : State) : (consumeEvent s).params = s.params := rfl
@[simp] theorem consumeEvent_persisted (s : State) : (consumeEvent s).persisted = s.persisted := rfl
@[simp] theorem consumeEvent_loaded (s : State) : (consumeEvent s).loaded = s.loaded := rfl
@[simp] theorem consumeEvent_input (s : State) : (consumeEvent s).input = s.input.tail := rfl
@[simp] theorem consumeEvent_events (s : State) : (consumeEvent s).events = s.events + 1 := rfl
@[simp] theorem consumeEvent_out (s : State) : (consumeEvent s).out = s.out := rfl

/-! ### beginIteration -/

@[simp] theorem beginIteration_image (s : State) : (beginIteration s).image = s.image := rfl
@[simp] theorem beginIteration_len (s : State) : (beginIteration s).len = s.len := rfl
@[simp] theorem beginIteration_scheme (s : State) : (beginIteration s).scheme = s.scheme := rfl
@[simp] theorem beginIteration_bank (s : State) : (beginIteration s).bank = s.bank := rfl
@[simp] theorem beginIteration_phase (s : State) : (beginIteration s).phase = s.phase := rfl
@[simp] theorem beginIteration_fault (s : State) : (beginIteration s).fault = s.fault := rfl
@[simp] theorem beginIteration_dout (s : State) : (beginIteration s).dout = s.dout := rfl
@[simp] theorem beginIteration_oe (s : State) : (beginIteration s).oe = s.oe := rfl
@[simp] theorem beginIteration_hist (s : State) : (beginIteration s).hist = s.hist := rfl
@[simp] theorem beginIteration_params (s : State) : (beginIteration s).params = s.params := rfl
@[simp] theorem beginIteration_persisted (s : State) : (beginIteration s).persisted = s.persisted := rfl
@[simp] theorem beginIteration_loaded (s : State) : (beginIteration s).loaded = s.loaded := rfl
@[simp] theorem beginIteration_input (s : State) : (beginIteration s).input = s.input.tail := rfl
@[simp] theorem beginIteration_events (s : State) : (beginIteration s).events = s.events + 1 := rfl
@[simp] theorem beginIteration_out (s : State) : (beginIteration s).out = .hiZ := rfl

/-! ### observeCycle -/

variable (sel : List HistEntry → Option Nat) (c : BusCycle) (s : State)

@[simp] theorem observeCycle_image : (observeCycle sel c s).image = s.image := by
  unfold observeCycle; cases h : sel (pushHistory s.params.feDepth c s.hist) <;> simp [h]
@[simp] theorem observeCycle_len : (observeCycle sel c s).len = s.len := by
  unfold observeCycle; cases h : sel (pushHistory s.params.feDepth c s.hist) <;> simp [h]
@[simp] theorem observeCycle_scheme : (observeCycle sel c s).scheme = s.scheme := by
  unfold observeCycle; cases h : sel (pushHistory s.params.feDepth c s.hist) <;> simp [h]
@[simp] theorem observeCycle_bank : (observeCycle sel c s).bank = (sel (pushHistory s.params.feDepth c s.hist)).getD s.bank := by
  unfold observeCycle; cases h : sel (pushHistory s.params.feDepth c s.hist) <;> simp [h]
@[simp] theorem observeCycle_phase : (observeCycle sel c s).phase = s.phase := by
  unfold observeCycle; cases h : sel (pushHistory s.params.feDepth c s.hist) <;> simp [h]
@[simp] theorem observeCycle_fault : (observeCycle sel c s).fault = s.fault := by
  unfold observeCycle; cases h : sel (pushHistory s.params.feDepth c s.hist) <;> simp [h]
@[simp] theorem observeCycle_dout : (observeCycle sel c s).dout = s.dout := by
  unfold observeCycle; cases h : sel (pushHistory s.params.feDepth c s.hist) <;> simp [h]
@[simp] theorem observeCycle_oe : (observeCycle sel c s).oe = s.oe := by
  unfold observeCycle; cases h : sel (pushHistory s.params.feDepth c s.hist) <;> simp [h]
@[simp] theorem observeCycle_hist : (observeCycle sel c s).hist = pushHistory s.params.feDepth c s.hist := by
  unfold observeCycle; cases h : sel (pushHistory s.params.feDepth c s.hist) <;> simp [h]
@[simp] theorem observeCycle_params : (observeCycle sel c s).params = s.params := by
  unfold observeCycle; cases h : sel (pushHistory s.params.feDepth c s.hist) <;> simp [h]
@[simp] theorem observeCycle_persisted : (observeCycle sel c s).persisted = s.persisted := by
  unfold observeCycle; cases h : sel (pushHistory s.params.feDepth c s.hist) <;> simp [h]
@[simp] theorem observeCycle_loaded : (observeCycle sel c s).loaded = s.loaded := by
  unfold observeCycle; cases h : sel (pushHistory s.params.feDepth c s.hist) <;> simp [h]
@[simp] theorem observeCycle_input : (observeCycle sel c s).input = s.input := by
  unfold observeCycle; cases h : sel (pushHistory s.params.feDepth c s.hist) <;> simp [h]
@[simp] theorem observeCycle_events : (observeCycle sel c s).events = s.events := by
  unfold observeCycle; cases h : sel (pushHistory s.params.feDepth c s.hist) <;> simp [h]
@[simp] theorem observeCycle_out : (observeCycle sel c s).out = s.out := by
  unfold observeCycle; cases h : sel (pushHistory s.params.feDepth c s.hist) <;> simp [h]

/-! ### powerOn -/

variable (p : Params) (a : Artifact) (es : List Event) (n : Nat)

@[simp] theorem powerOn_image : (State.powerOn p a es n).image = [] := rfl
@[simp] theorem powerOn_len : (State.powerOn p a es n).len = 0 := rfl
@[simp] theorem powerOn_scheme : (State.powerOn p a es n).scheme = Config.schemeAtPowerOn n := rfl
@[simp] theorem powerOn_bank : (State.powerOn p a es n).bank = Config.bankAtPowerOn n := rfl
@[simp] theorem powerOn_phase : (State.powerOn p a es n).phase = .idle := rfl
@[simp] theorem powerOn_fault : (State.powerOn p a es n).fault = .noFault := rfl
@[simp] theorem powerOn_dout : (State.powerOn p a es n).dout = Config.doutAtPowerOn n := rfl
@[simp] theorem powerOn_oe : (State.powerOn p a es n).oe = false := rfl
@[simp] theorem powerOn_hist : (State.powerOn p a es n).hist = [] := rfl
@[simp] theorem powerOn_params : (State.powerOn p a es n).params = p := rfl
@[simp] theorem powerOn_persisted : (State.powerOn p a es n).persisted = a := rfl
@[simp] theorem powerOn_loaded : (State.powerOn p a es n).loaded = false := rfl
@[simp] theorem powerOn_input : (State.powerOn p a es n).input = es := rfl
@[simp] theorem powerOn_events : (State.powerOn p a es n).events = n := rfl
@[simp] theorem powerOn_out : (State.powerOn p a es n).out = .hiZ := rfl

end Sys2Proof.Machine
end

