-- ==== Sys2Proof/Laws/Memory.lean ====
section
/-! SUPPORT. The image: the one operation that builds it keeps the canonical form, lists only positions inside the
sequence, and reads back every byte. -/

namespace Sys2Proof.Machine

theorem Memory.wfFrom_mono {lo lo' : Nat} {m : Memory} (h : lo' ≤ lo) (hm : Memory.wfFrom lo m = true) :
    Memory.wfFrom lo' m = true := by
  cases m with
  | nil => rfl
  | cons cell m =>
    obtain ⟨a, b⟩ := cell
    simp only [Memory.wfFrom, Bool.and_eq_true, decide_eq_true_eq] at hm ⊢
    exact ⟨⟨h.trans hm.1.1, hm.1.2⟩, hm.2⟩

theorem Memory.ofBytesFrom_wf (i : Nat) (bs : List Byte) : Memory.wfFrom i (Memory.ofBytesFrom i bs) = true := by
  induction bs generalizing i with
  | nil => rfl
  | cons b bs ih =>
    unfold Memory.ofBytesFrom
    split
    · exact Memory.wfFrom_mono (Nat.le_succ i) (ih (i + 1))
    · rename_i hb
      simp [Memory.wfFrom, hb, ih (i + 1)]

theorem Memory.ofBytes_wf (bs : List Byte) : (Memory.ofBytes bs).wf = true :=
  Memory.ofBytesFrom_wf 0 bs

theorem Memory.ofBytesFrom_inside {i : Nat} {bs : List Byte} {cell : Host.Cell}
    (h : cell ∈ Memory.ofBytesFrom i bs) : i ≤ cell.1 ∧ cell.1 < i + bs.length := by
  induction bs generalizing i with
  | nil => simp [Memory.ofBytesFrom] at h
  | cons b bs ih =>
    unfold Memory.ofBytesFrom at h
    simp only [List.length_cons]
    split at h
    · have := ih h; omega
    · rcases List.mem_cons.mp h with rfl | h
      · simp
      · have := ih h; omega

/-- A position below the first listed one is not listed. -/
theorem Memory.read_of_lt {lo i : Nat} {m : Memory} (hm : Memory.wfFrom lo m = true) (h : i < lo) :
    m.read i = Memory.unlisted := by
  induction m generalizing lo with
  | nil => rfl
  | cons cell m ih =>
    obtain ⟨a, b⟩ := cell
    simp only [Memory.wfFrom, Bool.and_eq_true, decide_eq_true_eq] at hm
    have hne : a ≠ i := by omega
    simp only [Memory.read, hne, if_false]
    exact ih hm.2 (by omega)

/-- Every byte of the sequence is read back unchanged (R116). -/
theorem Memory.read_ofBytesFrom (i j : Nat) (bs : List Byte) (h : j < bs.length) :
    (Memory.ofBytesFrom i bs).read (i + j) = bs[j] := by
  induction bs generalizing i j with
  | nil => simp at h
  | cons b bs ih =>
    unfold Memory.ofBytesFrom
    cases j with
    | zero =>
      split
      · rename_i hb
        simp [Memory.read_of_lt (Memory.ofBytesFrom_wf (i + 1) bs) (Nat.lt_succ_self i), hb]
      · simp [Memory.read]
    | succ j =>
      have hj := ih (i + 1) j (by simpa using h)
      rw [show i + 1 + j = i + (j + 1) by omega] at hj
      split
      · simpa using hj
      · simp only [Memory.read, show i ≠ i + (j + 1) by omega, if_false]
        simpa using hj

theorem Memory.read_ofBytes (bs : List Byte) (j : Nat) (h : j < bs.length) : (Memory.ofBytes bs).read j = bs[j] := by
  simpa [Memory.ofBytes] using Memory.read_ofBytesFrom 0 j bs h

end Sys2Proof.Machine
end

