-- ==== Sys2Proof/Laws/Ops.lean ====
section
/-! SUPPORT. One lemma for each shared operation that says everything it can do. -/

namespace Sys2Proof.Machine

/-! ## byte_at and the served read -/

/-- A lookup either returns the byte of a valid location or raises `OutOfRange` (R114). -/
theorem byteAt_cases (s : State) (bank offset : Nat) :
    (offset < bankSize s.scheme s.len ∧ bank < bankCount s.scheme ∧ imageIndex s bank offset < s.len ∧
      byteAt s bank offset = .ok (s.image.read (imageIndex s bank offset))) ∨
    ((bankSize s.scheme s.len ≤ offset ∨ bankCount s.scheme ≤ bank ∨ s.len ≤ imageIndex s bank offset) ∧
      byteAt s bank offset = .error .outOfRange) := by
  unfold byteAt
  by_cases h1 : bankSize s.scheme s.len ≤ offset
  · simp [h1]
  by_cases h2 : bankCount s.scheme ≤ bank
  · simp [h1, h2]
  by_cases h3 : s.len ≤ imageIndex s bank offset
  · simp [h1, h2, h3]
  · simp only [h1, h2, h3, if_false]
    exact .inl ⟨by omega, by omega, by omega, trivial⟩

/-- A lookup depends on the image, the length and the scheme alone (R118). -/
theorem byteAt_congr {s t : State} (hi : s.image = t.image) (hl : s.len = t.len) (hs : s.scheme = t.scheme)
    (bank offset : Nat) : byteAt s bank offset = byteAt t bank offset := by
  cases s; cases t
  dsimp only at hi hl hs
  subst hi hl hs
  rfl

theorem byteAt_error {s : State} {bank offset : Nat} {k : FaultKind} (h : byteAt s bank offset = .error k) :
    k = .outOfRange := by
  rcases byteAt_cases s bank offset with ⟨_, _, _, h'⟩ | ⟨_, h'⟩ <;> simp_all

theorem serveRead_ok {s : State} {a : Address} {b : Byte}
    (h : byteAt s s.bank (lookupOffset s.scheme s.len a) = .ok b) : serveRead a s = driveByte b s := by
  simp [serveRead, h]

theorem serveRead_error {s : State} {a : Address} {k : FaultKind}
    (h : byteAt s s.bank (lookupOffset s.scheme s.len a) = .error k) : serveRead a s = raise .outOfRange s := by
  simp [serveRead, h, byteAt_error h]

/-! ## Sizes -/

theorem supportedSize_iff (n : Nat) :
    supportedSize n = true ↔ n = 2048 ∨ n = 4096 ∨ n = 8192 ∨ n = 16384 ∨ n = 32768 := by
  simp [supportedSize, or_assoc]

/-- For a loaded image `bank_size` is 2048 or 4096 (R8). -/
theorem bankSize_cases (s : Scheme) {len : Nat} (h : supportedSize len = true) :
    bankSize s len = 2048 ∨ bankSize s len = 4096 := by
  rw [supportedSize_iff] at h
  cases s with
  | none => simp only [bankSize]; omega
  | f8 | f6 | f4 | fe => exact .inr rfl

theorem resetBank_lt (p : Params) (s : Scheme) : resetBank p s < bankCount s := by
  cases s
  · simp [resetBank, bankCount]
  · exact p.resetBankF8.isLt
  · exact p.resetBankF6.isLt
  · exact p.resetBankF4.isLt
  · exact p.resetBankFE.isLt

/-- The bank that a qualifying cycle selects is below the scheme's bank count (R67(c)). -/
theorem hotspotBank_lt {p : Params} {s : Scheme} {c : BusCycle} (h : qualifies p s c = true) :
    hotspotBank s c < bankCount s := by
  cases s with
  | none => simp [qualifies, hotspotBase] at h
  | fe => simp [qualifies, hotspotBase] at h
  | f8 | f6 | f4 =>
    simp only [qualifies, hotspotBase, Bool.and_eq_true, decide_eq_true_eq] at h
    simp only [hotspotBank, hotspotBase, Option.getD_some]
    simp only [bankCount] at h ⊢
    omega

/-! ## load -/

/-- What `load` answers, by its three outcomes (R110 to R113). -/
theorem load_cases (a : Artifact) :
    (supportedSize a.bytes.length = false ∧ load a = .error .invalidImageSize) ∨
    (supportedSize a.bytes.length = true ∧ a.tag = none ∧ inferScheme a.bytes.length = none ∧
      load a = .error .ambiguousScheme) ∨
    (supportedSize a.bytes.length = true ∧ ∃ sch,
      (a.tag = some sch ∨ (a.tag = none ∧ inferScheme a.bytes.length = some sch)) ∧
      load a = .ok { image := Memory.ofBytes a.bytes, len := a.bytes.length, scheme := sch }) := by
  cases hs : supportedSize a.bytes.length with
  | false => exact .inl ⟨rfl, by simp [load, hs]⟩
  | true =>
    cases ht : a.tag with
    | some sch => exact .inr (.inr ⟨rfl, sch, .inl rfl, by simp [load, hs, ht]⟩)
    | none =>
      cases hi : inferScheme a.bytes.length with
      | none => exact .inr (.inl ⟨rfl, rfl, rfl, by simp [load, hs, ht, hi]⟩)
      | some sch => exact .inr (.inr ⟨rfl, sch, .inr ⟨rfl, rfl⟩, by simp [load, hs, ht, hi]⟩)

theorem bootLoad_ok {s : State} {l : Loaded} (h : load s.persisted = .ok l) :
    bootLoad s = establish l { s with loaded := true } := by
  simp [bootLoad, h]

theorem bootLoad_error {s : State} {k : FaultKind} (h : load s.persisted = .error k) :
    bootLoad s = raise k { s with loaded := true } := by
  simp [bootLoad, h]

end Sys2Proof.Machine
end

