-- ==== Sys2Proof/Laws/PerInstr.lean ====
section
/-! SUPPORT. The statements made of every operation as syntax, one lemma a constructor: the word of an operation whose
row holds decodes, in its stage, to that operation (spec/30_encoding.md R84 to R86). -/

namespace Sys2Proof.Laws.RoundTrip

open Sys2Proof.Machine

/-- In every context in which the row of `i` holds, its stage's table selects `i` for the word of `i`. -/
def Statement (i : Instr) : Prop :=
  ∀ x : DecodeContext, i.wf x = true → decodeStage i.stage x (encode i) = i

theorem gateStopped (c : BusCycle) : Statement (.gateStopped c) := by
  intro x h
  simp_all [Instr.wf, Instr.stage, Instr.cycle, decodeStage, decodeGate_word]

theorem gateHold (isWrite : Bool) (address : Address) : Statement (.gateHold isWrite address) := by
  intro x h
  obtain ⟨h1, h2⟩ : x.fault = .noFault ∧ x.phase = .idle := by simpa [Instr.wf] using h
  simp [Instr.stage, Instr.cycle, decodeStage, decodeGate_word, h1, h2]

theorem gateArm (isWrite : Bool) (address : Address) : Statement (.gateArm isWrite address) := by
  intro x h
  obtain ⟨h1, h2⟩ : x.fault = .noFault ∧ x.phase = .idle := by simpa [Instr.wf] using h
  simp [Instr.stage, Instr.cycle, decodeStage, decodeGate_word, h1, h2]

theorem gateAdvance (c : BusCycle) : Statement (.gateAdvance c) := by
  intro x h
  obtain ⟨h1, h2⟩ : x.fault = .noFault ∧ x.phase = .armed := by simpa [Instr.wf] using h
  simp [Instr.stage, Instr.cycle, decodeStage, decodeGate_word, h1, h2]

theorem gatePass (c : BusCycle) : Statement (.gatePass c) := by
  intro x h
  obtain ⟨h1, h2⟩ : x.fault = .noFault ∧ x.phase = .running := by simpa [Instr.wf] using h
  simp [Instr.stage, Instr.cycle, decodeStage, decodeGate_word, h1, h2]

theorem bankNone (c : BusCycle) : Statement (.bankNone c) := by
  intro x h
  have hs : x.scheme = .none := by simpa [Instr.wf] using h
  simp [Instr.stage, Instr.cycle, decodeStage, decodeBank, hs]

theorem bankF80 (halted isWrite : Bool) : Statement (.bankF80 halted isWrite) := by
  intro x h
  obtain ⟨hs, hd⟩ : x.scheme = .f8 ∧ dirOk x.params.triggerF8 isWrite = true := by
    simpa [Instr.wf, hotspotRowHolds] using h
  simp [Instr.stage, Instr.cycle, decodeStage, decodeBank, hs, decodeF8_word, hd]

theorem bankF81 (halted isWrite : Bool) : Statement (.bankF81 halted isWrite) := by
  intro x h
  obtain ⟨hs, hd⟩ : x.scheme = .f8 ∧ dirOk x.params.triggerF8 isWrite = true := by
    simpa [Instr.wf, hotspotRowHolds] using h
  simp [Instr.stage, Instr.cycle, decodeStage, decodeBank, hs, decodeF8_word, hd]

theorem bankF8Nop (c : BusCycle) : Statement (.bankF8Nop c) := by
  intro x h
  obtain ⟨hs, hq⟩ : x.scheme = .f8 ∧ ¬ qualifies x.params .f8 c = true := by simpa [Instr.wf, nopRowHolds] using h
  rw [qualifies_f8] at hq
  simp only [Instr.stage, encode_eq, Instr.cycle, decodeStage, decodeBank, hs, decodeF8_word]
  grind

theorem bankF60 (halted isWrite : Bool) : Statement (.bankF60 halted isWrite) := by
  intro x h
  obtain ⟨hs, hd⟩ : x.scheme = .f6 ∧ dirOk x.params.triggerF6 isWrite = true := by
    simpa [Instr.wf, hotspotRowHolds] using h
  simp [Instr.stage, Instr.cycle, decodeStage, decodeBank, hs, decodeF6_word, hd]

theorem bankF61 (halted isWrite : Bool) : Statement (.bankF61 halted isWrite) := by
  intro x h
  obtain ⟨hs, hd⟩ : x.scheme = .f6 ∧ dirOk x.params.triggerF6 isWrite = true := by
    simpa [Instr.wf, hotspotRowHolds] using h
  simp [Instr.stage, Instr.cycle, decodeStage, decodeBank, hs, decodeF6_word, hd]

theorem bankF62 (halted isWrite : Bool) : Statement (.bankF62 halted isWrite) := by
  intro x h
  obtain ⟨hs, hd⟩ : x.scheme = .f6 ∧ dirOk x.params.triggerF6 isWrite = true := by
    simpa [Instr.wf, hotspotRowHolds] using h
  simp [Instr.stage, Instr.cycle, decodeStage, decodeBank, hs, decodeF6_word, hd]

theorem bankF63 (halted isWrite : Bool) : Statement (.bankF63 halted isWrite) := by
  intro x h
  obtain ⟨hs, hd⟩ : x.scheme = .f6 ∧ dirOk x.params.triggerF6 isWrite = true := by
    simpa [Instr.wf, hotspotRowHolds] using h
  simp [Instr.stage, Instr.cycle, decodeStage, decodeBank, hs, decodeF6_word, hd]

theorem bankF6Nop (c : BusCycle) : Statement (.bankF6Nop c) := by
  intro x h
  obtain ⟨hs, hq⟩ : x.scheme = .f6 ∧ ¬ qualifies x.params .f6 c = true := by simpa [Instr.wf, nopRowHolds] using h
  rw [qualifies_f6] at hq
  simp only [Instr.stage, encode_eq, Instr.cycle, decodeStage, decodeBank, hs, decodeF6_word]
  grind

theorem bankF40 (halted isWrite : Bool) : Statement (.bankF40 halted isWrite) := by
  intro x h
  obtain ⟨hs, hd⟩ : x.scheme = .f4 ∧ dirOk x.params.triggerF4 isWrite = true := by
    simpa [Instr.wf, hotspotRowHolds] using h
  simp [Instr.stage, Instr.cycle, decodeStage, decodeBank, hs, decodeF4_word, hd]

theorem bankF41 (halted isWrite : Bool) : Statement (.bankF41 halted isWrite) := by
  intro x h
  obtain ⟨hs, hd⟩ : x.scheme = .f4 ∧ dirOk x.params.triggerF4 isWrite = true := by
    simpa [Instr.wf, hotspotRowHolds] using h
  simp [Instr.stage, Instr.cycle, decodeStage, decodeBank, hs, decodeF4_word, hd]

theorem bankF42 (halted isWrite : Bool) : Statement (.bankF42 halted isWrite) := by
  intro x h
  obtain ⟨hs, hd⟩ : x.scheme = .f4 ∧ dirOk x.params.triggerF4 isWrite = true := by
    simpa [Instr.wf, hotspotRowHolds] using h
  simp [Instr.stage, Instr.cycle, decodeStage, decodeBank, hs, decodeF4_word, hd]

theorem bankF43 (halted isWrite : Bool) : Statement (.bankF43 halted isWrite) := by
  intro x h
  obtain ⟨hs, hd⟩ : x.scheme = .f4 ∧ dirOk x.params.triggerF4 isWrite = true := by
    simpa [Instr.wf, hotspotRowHolds] using h
  simp [Instr.stage, Instr.cycle, decodeStage, decodeBank, hs, decodeF4_word, hd]

theorem bankF44 (halted isWrite : Bool) : Statement (.bankF44 halted isWrite) := by
  intro x h
  obtain ⟨hs, hd⟩ : x.scheme = .f4 ∧ dirOk x.params.triggerF4 isWrite = true := by
    simpa [Instr.wf, hotspotRowHolds] using h
  simp [Instr.stage, Instr.cycle, decodeStage, decodeBank, hs, decodeF4_word, hd]

theorem bankF45 (halted isWrite : Bool) : Statement (.bankF45 halted isWrite) := by
  intro x h
  obtain ⟨hs, hd⟩ : x.scheme = .f4 ∧ dirOk x.params.triggerF4 isWrite = true := by
    simpa [Instr.wf, hotspotRowHolds] using h
  simp [Instr.stage, Instr.cycle, decodeStage, decodeBank, hs, decodeF4_word, hd]

theorem bankF46 (halted isWrite : Bool) : Statement (.bankF46 halted isWrite) := by
  intro x h
  obtain ⟨hs, hd⟩ : x.scheme = .f4 ∧ dirOk x.params.triggerF4 isWrite = true := by
    simpa [Instr.wf, hotspotRowHolds] using h
  simp [Instr.stage, Instr.cycle, decodeStage, decodeBank, hs, decodeF4_word, hd]

theorem bankF47 (halted isWrite : Bool) : Statement (.bankF47 halted isWrite) := by
  intro x h
  obtain ⟨hs, hd⟩ : x.scheme = .f4 ∧ dirOk x.params.triggerF4 isWrite = true := by
    simpa [Instr.wf, hotspotRowHolds] using h
  simp [Instr.stage, Instr.cycle, decodeStage, decodeBank, hs, decodeF4_word, hd]

theorem bankF4Nop (c : BusCycle) : Statement (.bankF4Nop c) := by
  intro x h
  obtain ⟨hs, hq⟩ : x.scheme = .f4 ∧ ¬ qualifies x.params .f4 c = true := by simpa [Instr.wf, nopRowHolds] using h
  rw [qualifies_f4] at hq
  simp only [Instr.stage, encode_eq, Instr.cycle, decodeStage, decodeBank, hs, decodeF4_word]
  grind

theorem bankFeObserve (c : BusCycle) : Statement (.bankFeObserve c) := by
  intro x h
  have hs : x.scheme = .fe := by simpa [Instr.wf] using h
  simp [Instr.stage, Instr.cycle, decodeStage, decodeBank, hs]

theorem dataWrite (halted : Bool) (address : Address) : Statement (.dataWrite halted address) := by
  intro x _
  simp [Instr.stage, Instr.cycle, decodeStage, decodeData_word]

theorem dataRead (halted : Bool) (address : Address) : Statement (.dataRead halted address) := by
  intro x h
  have hw : inWindow x.params address = true := by simpa [Instr.wf] using h
  simp [Instr.stage, Instr.cycle, decodeStage, decodeData_word, hw]

theorem dataOutside (c : BusCycle) : Statement (.dataOutside c) := by
  intro x h
  obtain ⟨h1, h2⟩ : c.isWrite = false ∧ inWindow x.params c.address = false := by simpa [Instr.wf] using h
  simp [Instr.stage, Instr.cycle, decodeStage, decodeData_word, h1, h2]

theorem rel (c : BusCycle) : Statement (.rel c) := by
  intro x _
  simp [Instr.stage, Instr.cycle, decodeStage]

end Sys2Proof.Laws.RoundTrip
end

