-- ==== Sys2Proof/Laws/Step.lean ====
section
/-! SUPPORT. What exec, an iteration and a step can do, said once. -/

namespace Sys2Proof.Machine

/-! ## exec -/

/-- Every operation answers a next state. -/
theorem exec_next (i : Instr) (s : State) : ∃ t, exec i s = .next t := by
  cases i <;> exact ⟨_, rfl⟩

theorem execAll_nil (s : State) : execAll [] s = .next s := rfl

theorem execAll_cons {i : Instr} {s t : State} (h : exec i s = .next t) (is : List Instr) :
    execAll (i :: is) s = execAll is t := by
  simp [execAll, h]

theorem execAll_next (is : List Instr) (s : State) : ∃ t, execAll is s = .next t := by
  induction is generalizing s with
  | nil => exact ⟨s, rfl⟩
  | cons i is ih =>
    obtain ⟨t, ht⟩ := exec_next i s
    rw [execAll_cons ht]
    exact ih t

/-- What stage DATA does with a cycle, by its three rows (R86). -/
def dataStage (c : BusCycle) (s : State) : State :=
  if readInWindow s c then serveRead c.address s else driveNothing s

theorem exec_decodeData (x : DecodeContext) (c : BusCycle) (s : State) (hp : x.params = s.params) :
    exec (decodeData x c.word) s = .next (dataStage c s) := by
  rw [decodeData_word, hp]
  unfold dataStage readInWindow
  cases c.isWrite <;> cases inWindow s.params c.address <;> rfl

/-- What stage BANK does with a cycle: the operation its table selects writes the bank and the history that R130
gives. -/
theorem exec_decodeBank (x : DecodeContext) (c : BusCycle) (s : State) (hs : x.scheme = s.scheme)
    (hp : x.params = s.params) : exec (decodeBank x c.word) s = .next (referenceBank c s) := by
  rcases s with ⟨image, len, scheme, bank, phase, fault, dout, oe, hist, params, persisted, loaded, input, events, out⟩
  dsimp only at hs hp
  cases scheme with
  | none => simp [decodeBank, hs, exec, execBankNone, referenceBank, bankAfter, histAfter]
  | fe =>
    simp only [decodeBank, hs, exec, execBankFeObserve, observeCycle, pushHistory, BusCycle.ofWord_word,
      referenceBank, bankAfter, histAfter]
    cases Config.feSelect (((c.address, c.isWrite) :: hist).take params.feDepth) <;> rfl
  | f8 =>
    simp only [decodeBank, hs, hp, decodeF8_word, referenceBank, bankAfter, histAfter, qualifies_f8]
    split_ifs <;>
      simp_all [exec, execBankF80, execBankF81, execBankF8Nop, selectBank]
  | f6 =>
    simp only [decodeBank, hs, hp, decodeF6_word, referenceBank, bankAfter, histAfter, qualifies_f6]
    split_ifs <;>
      simp_all [exec, execBankF60, execBankF61, execBankF62, execBankF63, execBankF6Nop, selectBank]
  | f4 =>
    simp only [decodeBank, hs, hp, decodeF4_word, referenceBank, bankAfter, histAfter, qualifies_f4]
    split_ifs <;>
      simp_all [exec, execBankF40, execBankF41, execBankF42, execBankF43, execBankF44, execBankF45, execBankF46, execBankF47, execBankF4Nop, selectBank]

/-! ## One iteration, by what the gate selects -/

theorem runCycle_stopped {c : BusCycle} {s : State} (h : s.fault ≠ .noFault) :
    decodeIteration (context s) c.word = [.gateStopped c, .rel c] ∧
    runCycle c s = .next (release (driveNothing (beginIteration s))) := by
  have hd : decodeIteration (context s) c.word = [.gateStopped c, .rel c] := by
    simp [decodeIteration, decodeGate_word, context, h, Instr.goesOn]
  exact ⟨hd, by rw [runCycle, hd]; rfl⟩

theorem runCycle_held {c : BusCycle} {s : State} (hf : s.fault = .noFault) (hp : s.phase = .idle)
    (hh : c.halted = true) :
    decodeIteration (context s) c.word = [.gateHold c.isWrite c.address, .rel c] ∧
    runCycle c s = .next (release (driveNothing (beginIteration s))) := by
  have hd : decodeIteration (context s) c.word = [.gateHold c.isWrite c.address, .rel c] := by
    simp [decodeIteration, decodeGate_word, context, hf, hp, hh, Instr.goesOn]
  exact ⟨hd, by rw [runCycle, hd]; rfl⟩

/-- The iteration of a cycle that the gate lets through: the phase advances, then stages BANK, DATA and REL. -/
theorem runCycle_open {c : BusCycle} {s : State} (h : gateOpen s c = true) :
    (∃ g, (g = .gateArm c.isWrite c.address ∨ g = .gateAdvance c ∨ g = .gatePass c) ∧
      decodeGate (context s) c.word = g ∧
      decodeIteration (context s) c.word = [g, decodeBank (context s) c.word, decodeData (context s) c.word, .rel c]) ∧
    runCycle c s =
      .next (release (dataStage c (referenceBank c (setPhase (phaseAfter s.phase) (beginIteration s))))) := by
  simp only [gateOpen, Bool.and_eq_true, beq_iff_eq, Bool.not_eq_true', Bool.and_eq_false_iff, beq_eq_false_iff_ne] at h
  obtain ⟨hf, hp⟩ := h
  obtain ⟨g, hg, hdec, hex⟩ : ∃ g, (g = .gateArm c.isWrite c.address ∨ g = .gateAdvance c ∨ g = .gatePass c) ∧
      decodeGate (context s) c.word = g ∧
      exec g (beginIteration s) = .next (setPhase (phaseAfter s.phase) (beginIteration s)) := by
    cases hph : s.phase with
    | idle =>
      have hh : c.halted = false := by simpa [hph] using hp
      exact ⟨_, .inl rfl, by simp [decodeGate_word, context, hf, hph, hh], rfl⟩
    | armed => exact ⟨_, .inr (.inl rfl), by simp [decodeGate_word, context, hf, hph], rfl⟩
    | running =>
      refine ⟨_, .inr (.inr rfl), by simp [decodeGate_word, context, hf, hph], ?_⟩
      simp [exec, execGatePass, phaseAfter, setPhase, ← hph, beginIteration, consumeEvent]
  have hgo : g.goesOn = true := by rcases hg with rfl | rfl | rfl <;> rfl
  have hd : decodeIteration (context s) c.word
      = [g, decodeBank (context s) c.word, decodeData (context s) c.word, .rel c] := by
    simp [decodeIteration, hdec, hgo]
  refine ⟨⟨g, hg, hdec, hd⟩, ?_⟩
  rw [runCycle, hd, execAll_cons hex, execAll_cons (exec_decodeBank _ _ _ rfl rfl),
    execAll_cons (exec_decodeData _ _ _ rfl)]
  rfl

/-! ## One step -/

theorem step_presents {s : State} {c : BusCycle} (h : Presents s c) : step s = runCycle c s := by
  simp [step, engineStep, h.1, h.2]

theorem step_powersOff {s : State} (h : PowersOff s) : step s = .next (powerCycle (consumeEvent s)) := by
  simp [step, engineStep, h.1, h.2]

theorem step_unloaded {s : State} (h : s.loaded = false) : step s = .next (bootLoad s) := by
  simp [step, engineStep, h]

/-- A step is a load, an iteration on some cycle, or a power cycle. -/
theorem step_kinds (s : State) : s.loaded = false ∨ (∃ c, Presents s c) ∨ PowersOff s := by
  cases hl : s.loaded with
  | false => exact .inl rfl
  | true =>
    cases he : nextEvent s with
    | cycle c => exact .inr (.inl ⟨c, hl, he⟩)
    | powerCycle => exact .inr (.inr ⟨hl, he⟩)

/-! ## The state after an iteration -/

/-- Whether the gate lets a cycle through, by what it selects otherwise (R84). -/
theorem gate_cases (s : State) (c : BusCycle) :
    s.fault ≠ .noFault ∨ (s.fault = .noFault ∧ s.phase = .idle ∧ c.halted = true) ∨ gateOpen s c = true := by
  by_cases hf : s.fault = .noFault
  · by_cases h : s.phase = .idle ∧ c.halted = true
    · exact .inr (.inl ⟨hf, h⟩)
    · refine .inr (.inr ?_)
      simp only [gateOpen, hf, beq_self_eq_true, Bool.true_and, Bool.not_eq_true', Bool.and_eq_false_iff,
        beq_eq_false_iff_ne]
      by_cases hp : s.phase = .idle
      · exact .inr (by simpa [hp] using h)
      · exact .inl hp
  · exact .inl hf

theorem gateOpen_noFault {s : State} {c : BusCycle} (h : gateOpen s c = true) : s.fault = .noFault := by
  simp only [gateOpen, Bool.and_eq_true, beq_iff_eq] at h
  exact h.1

/-- The state after an iteration that the gate stops or holds. -/
def shutState (s : State) : State :=
  release (driveNothing (beginIteration s))

/-- The state after an iteration that the gate lets through. -/
def openState (c : BusCycle) (s : State) : State :=
  release (dataStage c (referenceBank c (setPhase (phaseAfter s.phase) (beginIteration s))))

theorem step_shut {s : State} {c : BusCycle} (h : Presents s c) (hg : gateOpen s c = false) :
    step s = .next (shutState s) := by
  rw [step_presents h]
  rcases gate_cases s c with h' | ⟨h1, h2, h3⟩ | h'
  · exact (runCycle_stopped h').2
  · exact (runCycle_held h1 h2 h3).2
  · simp [h'] at hg

theorem step_open {s : State} {c : BusCycle} (h : Presents s c) (hg : gateOpen s c = true) :
    step s = .next (openState c s) := by
  rw [step_presents h]
  exact (runCycle_open hg).2

theorem shutState_eq (s : State) :
    shutState s = { s with out := .hiZ, oe := false, input := s.input.tail, events := s.events + 1 } := rfl

/-- Stage DATA does one of three things (R86, R164). -/
theorem dataStage_cases (c : BusCycle) (s : State) :
    (readInWindow s c = false ∧ dataStage c s = driveNothing s) ∨
    (readInWindow s c = true ∧ ∃ b, byteAt s s.bank (lookupOffset s.scheme s.len c.address) = .ok b ∧
      dataStage c s = driveByte b s) ∨
    (readInWindow s c = true ∧ byteAt s s.bank (lookupOffset s.scheme s.len c.address) = .error .outOfRange ∧
      dataStage c s = raise .outOfRange s) := by
  unfold dataStage
  cases hr : readInWindow s c with
  | false => exact .inl ⟨rfl, by simp⟩
  | true =>
    cases hb : byteAt s s.bank (lookupOffset s.scheme s.len c.address) with
    | ok b => exact .inr (.inl ⟨rfl, b, rfl, by simp [serveRead_ok hb]⟩)
    | error k =>
      cases byteAt_error hb
      exact .inr (.inr ⟨rfl, rfl, by simp [serveRead_error hb]⟩)

/-- Everything an iteration that the gate lets through can do, field by field. -/
theorem openState_cases (c : BusCycle) (s : State) :
    (readInWindow s c = false ∧ openState c s = { s with
      phase := phaseAfter s.phase, bank := bankAfter s c, hist := histAfter s c, oe := false, out := .hiZ
      input := s.input.tail, events := s.events + 1 }) ∨
    (readInWindow s c = true ∧ ∃ b, lookupAfter s c = .ok b ∧ openState c s = { s with
      phase := phaseAfter s.phase, bank := bankAfter s c, hist := histAfter s c, oe := false, dout := b
      out := .drive b, input := s.input.tail, events := s.events + 1 }) ∨
    (readInWindow s c = true ∧ lookupAfter s c = .error .outOfRange ∧ openState c s = { s with
      phase := phaseAfter s.phase, bank := bankAfter s c, hist := histAfter s c, oe := false, fault := .outOfRange
      out := .hiZ, input := s.input.tail, events := s.events + 1 }) := by
  unfold openState
  have hl : lookupAfter s c = byteAt (referenceBank c (setPhase (phaseAfter s.phase) (beginIteration s)))
      (bankAfter s c) (lookupOffset s.scheme s.len c.address) := byteAt_congr rfl rfl rfl _ _
  rcases dataStage_cases c (referenceBank c (setPhase (phaseAfter s.phase) (beginIteration s))) with
    ⟨h1, h2⟩ | ⟨h1, b, hb, h2⟩ | ⟨h1, hb, h2⟩
  · exact .inl ⟨h1, by rw [h2]; rfl⟩
  · exact .inr (.inl ⟨h1, b, hl.trans hb, by rw [h2]; rfl⟩)
  · exact .inr (.inr ⟨h1, hl.trans hb, by rw [h2]; rfl⟩)

theorem histAfter_of_ne_fe {s : State} (h : s.scheme ≠ .fe) (c : BusCycle) : histAfter s c = s.hist := by
  unfold histAfter
  split
  · exact absurd ‹_› h
  all_goals rfl

/-- But under `FE` the bank after stage BANK is the one R136 gives. -/
theorem bankAfter_of_ne_fe {s : State} (h : s.scheme ≠ .fe) (c : BusCycle) :
    bankAfter s c = if qualifies s.params s.scheme c then hotspotBank s.scheme c else s.bank := by
  unfold bankAfter
  split
  case h_5 hs => exact absurd hs h
  all_goals
    rename_i hs
    simp [hs, hotspotBank, hotspotBase]
  simp [qualifies, hotspotBase]

/-- The registers and the output after an iteration that the gate lets through. -/
theorem openState_fields {s : State} {c : BusCycle} (hg : gateOpen s c = true) :
    (openState c s).phase = phaseAfter s.phase ∧ (openState c s).bank = bankAfter s c ∧
    (openState c s).hist = histAfter s c ∧ (openState c s).out = outputOf s c := by
  rcases openState_cases c s with ⟨h, e⟩ | ⟨h, b, hb, e⟩ | ⟨h, hb, e⟩ <;> rw [e] <;> simp [outputOf, *]

/-- Two next states that one step answers are the same. -/
theorem step_unique {s t u : State} (h : step s = .next t) (h' : step s = .next u) : t = u := by
  rw [h] at h'
  simpa using h'

/-- A run whose first step is known. -/
theorem runSteps_succ {s t : State} (h : step s = .next t) (n : Nat) : runSteps (n + 1) s = runSteps n t := by
  simp [runSteps, h]

/-! ## The placing of a word -/

theorem wordOfNat_of_lt {w : Nat} (h : w < 2 ^ 18) : wordOfNat w = .ok (BitVec.ofNat 18 w) :=
  if_pos h

theorem wordOfNat_of_ge {w : Nat} (h : ¬ w < 2 ^ 18) : wordOfNat w = .error .widerThanBusWord :=
  if_neg h

/-- A placed word's bus cycle is presented to the next step. -/
theorem withFetchWord_presents {s : State} {n w : Nat} (h : w < 2 ^ 18) :
    Presents (s.withFetchWord n w) (BusCycle.ofWord (BitVec.ofNat 18 w)) := by
  unfold State.withFetchWord placeWord
  rw [wordOfNat_of_lt h]
  exact ⟨rfl, rfl⟩

/-- A cycle at the head of the input list is the one presented. -/
theorem presents_of_input {s : State} {c : BusCycle} {es : List Event} (hl : s.loaded = true)
    (h : s.input = .cycle c :: es) : Presents s c :=
  ⟨hl, by simp [nextEvent, h]⟩

end Sys2Proof.Machine
end

