-- ==== Sys2Proof/Tests/Slice0.lean ====
section
/-! SUPPORT. The model's own tests: what the well-formedness checks refuse, words written out from the spec's tables,
single iterations whose results spec/95_test_vectors.md gives, and a witness for every statement that has hypotheses. -/

namespace Sys2Proof.Tests

open Sys2Proof.Machine

/-! ## Small states -/

/-- Parameters with the spec's default window and the given trigger direction. -/
def params (d : TriggerDir) : Params where
  windowMask  := 0xE000
  windowMatch := 0x0000
  triggerF8   := d
  triggerF6   := d
  triggerF4   := d
  resetBankF8 := 1
  resetBankF6 := 0
  resetBankF4 := 7
  resetBankFE := 3
  feDepth     := 2

def cyc (a : Address) (w h : Bool) : BusCycle where
  address := a
  isWrite := w
  halted  := h

def rd (a : Address) : BusCycle := cyc a false false

def wr (a : Address) : BusCycle := cyc a true false

def ctx (k : FaultKind) (ph : Phase) (s : Scheme) (d : TriggerDir) : DecodeContext where
  fault  := k
  phase  := ph
  scheme := s
  params := params d

/-- A loaded, running block with the listed bytes, about to sample `c`. -/
def block (s : Scheme) (len bank : Nat) (cells : Memory) (c : BusCycle) : State where
  image  := cells
  len    := len
  scheme := s
  bank   := bank
  phase  := .running
  fault  := .noFault
  dout   := 0x4C
  oe     := false
  hist   := []
  params := params .either
  persisted := { bytes := [], tag := none }
  loaded := true
  input  := [.cycle c]
  events := 0
  out    := .hiZ

/-- A powered block before its load. -/
def unloaded (bytes : List Byte) (tag : Option Scheme) : State :=
  { block .none 0 0 [] (rd 0) with persisted := { bytes := bytes, tag := tag }, loaded := false, phase := .idle }

/-- The state after one step, or the state itself where there is none. -/
def after (s : State) : State :=
  match step s with
  | .next t => t
  | .fault _ => s
  | .refused _ => s

/-- What a test reads of a state: output, phase, bank, fault, enable. -/
def look (s : State) : Output × Phase × Nat × FaultKind × Bool :=
  (s.out, s.phase, s.bank, s.fault, s.oe)

/-! ## Well-formedness: an ill-formed term for each check -/

theorem test_wf_gate_refuses :
    Instr.wf (ctx .noFault .running .f8 .either) (.gateStopped (rd 0)) = false ∧
    Instr.wf (ctx .outOfRange .idle .f8 .either) (.gateHold false 0) = false ∧
    Instr.wf (ctx .noFault .armed .f8 .either) (.gateHold false 0) = false ∧
    Instr.wf (ctx .outOfRange .idle .f8 .either) (.gateArm false 0) = false ∧
    Instr.wf (ctx .noFault .running .f8 .either) (.gateArm false 0) = false ∧
    Instr.wf (ctx .noFault .idle .f8 .either) (.gateAdvance (rd 0)) = false ∧
    Instr.wf (ctx .outOfRange .armed .f8 .either) (.gateAdvance (rd 0)) = false ∧
    Instr.wf (ctx .noFault .armed .f8 .either) (.gatePass (rd 0)) = false ∧
    Instr.wf (ctx .outOfRange .running .f8 .either) (.gatePass (rd 0)) = false := by decide

/-- A hotspot row of another scheme, and one in a direction that does not trigger (R136). -/
theorem test_wf_hotspot_refuses :
    Instr.wf (ctx .noFault .running .f6 .either) (.bankF80 false true) = false ∧
    Instr.wf (ctx .noFault .running .f8 .readOnly) (.bankF80 false true) = false ∧
    Instr.wf (ctx .noFault .running .f8 .writeOnly) (.bankF80 false false) = false ∧
    Instr.wf (ctx .noFault .running .f6 .either) (.bankF81 false true) = false ∧
    Instr.wf (ctx .noFault .running .f8 .readOnly) (.bankF81 false true) = false ∧
    Instr.wf (ctx .noFault .running .f8 .writeOnly) (.bankF81 false false) = false ∧
    Instr.wf (ctx .noFault .running .f4 .either) (.bankF60 false true) = false ∧
    Instr.wf (ctx .noFault .running .f6 .readOnly) (.bankF60 false true) = false ∧
    Instr.wf (ctx .noFault .running .f6 .writeOnly) (.bankF60 false false) = false ∧
    Instr.wf (ctx .noFault .running .f4 .either) (.bankF61 false true) = false ∧
    Instr.wf (ctx .noFault .running .f6 .readOnly) (.bankF61 false true) = false ∧
    Instr.wf (ctx .noFault .running .f6 .writeOnly) (.bankF61 false false) = false ∧
    Instr.wf (ctx .noFault .running .f4 .either) (.bankF62 false true) = false ∧
    Instr.wf (ctx .noFault .running .f6 .readOnly) (.bankF62 false true) = false ∧
    Instr.wf (ctx .noFault .running .f6 .writeOnly) (.bankF62 false false) = false ∧
    Instr.wf (ctx .noFault .running .f4 .either) (.bankF63 false true) = false ∧
    Instr.wf (ctx .noFault .running .f6 .readOnly) (.bankF63 false true) = false ∧
    Instr.wf (ctx .noFault .running .f6 .writeOnly) (.bankF63 false false) = false ∧
    Instr.wf (ctx .noFault .running .f8 .either) (.bankF40 false true) = false ∧
    Instr.wf (ctx .noFault .running .f4 .readOnly) (.bankF40 false true) = false ∧
    Instr.wf (ctx .noFault .running .f4 .writeOnly) (.bankF40 false false) = false ∧
    Instr.wf (ctx .noFault .running .f8 .either) (.bankF41 false true) = false ∧
    Instr.wf (ctx .noFault .running .f4 .readOnly) (.bankF41 false true) = false ∧
    Instr.wf (ctx .noFault .running .f4 .writeOnly) (.bankF41 false false) = false ∧
    Instr.wf (ctx .noFault .running .f8 .either) (.bankF42 false true) = false ∧
    Instr.wf (ctx .noFault .running .f4 .readOnly) (.bankF42 false true) = false ∧
    Instr.wf (ctx .noFault .running .f4 .writeOnly) (.bankF42 false false) = false ∧
    Instr.wf (ctx .noFault .running .f8 .either) (.bankF43 false true) = false ∧
    Instr.wf (ctx .noFault .running .f4 .readOnly) (.bankF43 false true) = false ∧
    Instr.wf (ctx .noFault .running .f4 .writeOnly) (.bankF43 false false) = false ∧
    Instr.wf (ctx .noFault .running .f8 .either) (.bankF44 false true) = false ∧
    Instr.wf (ctx .noFault .running .f4 .readOnly) (.bankF44 false true) = false ∧
    Instr.wf (ctx .noFault .running .f4 .writeOnly) (.bankF44 false false) = false ∧
    Instr.wf (ctx .noFault .running .f8 .either) (.bankF45 false true) = false ∧
    Instr.wf (ctx .noFault .running .f4 .readOnly) (.bankF45 false true) = false ∧
    Instr.wf (ctx .noFault .running .f4 .writeOnly) (.bankF45 false false) = false ∧
    Instr.wf (ctx .noFault .running .f8 .either) (.bankF46 false true) = false ∧
    Instr.wf (ctx .noFault .running .f4 .readOnly) (.bankF46 false true) = false ∧
    Instr.wf (ctx .noFault .running .f4 .writeOnly) (.bankF46 false false) = false ∧
    Instr.wf (ctx .noFault .running .f8 .either) (.bankF47 false true) = false ∧
    Instr.wf (ctx .noFault .running .f4 .readOnly) (.bankF47 false true) = false ∧
    Instr.wf (ctx .noFault .running .f4 .writeOnly) (.bankF47 false false) = false := by decide

/-- A default row of another scheme, and one whose cycle qualifies (R137). -/
theorem test_wf_default_refuses :
    Instr.wf (ctx .noFault .running .f6 .either) (.bankF8Nop (rd 0x0000)) = false ∧
    Instr.wf (ctx .noFault .running .f8 .either) (.bankF8Nop (rd 0x1FF9)) = false ∧
    Instr.wf (ctx .noFault .running .f4 .either) (.bankF6Nop (rd 0x0000)) = false ∧
    Instr.wf (ctx .noFault .running .f6 .either) (.bankF6Nop (rd 0x1FF6)) = false ∧
    Instr.wf (ctx .noFault .running .f8 .either) (.bankF4Nop (rd 0x0000)) = false ∧
    Instr.wf (ctx .noFault .running .f4 .either) (.bankF4Nop (rd 0x1FFB)) = false ∧
    Instr.wf (ctx .noFault .running .f8 .either) (.bankNone (rd 0)) = false ∧
    Instr.wf (ctx .noFault .running .f8 .either) (.bankFeObserve (rd 0)) = false := by decide

/-- A read row outside the window; an outside row on a write and inside the window (R60, R86). -/
theorem test_wf_data_refuses :
    Instr.wf (ctx .noFault .running .f8 .either) (.dataRead false 0x2000) = false ∧
    Instr.wf (ctx .noFault .running .f8 .either) (.dataOutside (wr 0x2000)) = false ∧
    Instr.wf (ctx .noFault .running .f8 .either) (.dataOutside (rd 0x1FFF)) = false := by decide

/-! ## Decoding: words written out from R81 and the rows of R84, R85, R86

Bit 17 is `halted`, bit 16 `is_write`, bits 15 to 0 the address. -/

theorem test_decode_gate_stopped : decodeStage .gate (ctx .outOfRange .running .f8 .either) 0b000000000000000000
    = .gateStopped (rd 0x0000) := by decide

/-- V41: halted write 0x1FF8. -/
theorem test_decode_gate_hold : decodeStage .gate (ctx .noFault .idle .f8 .either) 0b110001111111111000
    = .gateHold true 0x1FF8 := by decide

theorem test_decode_gate_arm : decodeStage .gate (ctx .noFault .idle .f8 .either) 0b000001111111111000
    = .gateArm false 0x1FF8 := by decide

/-- V43: halted read 0x0001. -/
theorem test_decode_gate_advance : decodeStage .gate (ctx .noFault .armed .f8 .either) 0b100000000000000001
    = .gateAdvance (cyc 0x0001 false true) := by decide

/-- V44. -/
theorem test_decode_gate_pass : decodeStage .gate (ctx .noFault .running .f8 .either) 0b100000000000000010
    = .gatePass (cyc 0x0002 false true) := by decide

/-- V35h. -/
theorem test_decode_bank_none : decodeStage .bank (ctx .noFault .running .none .either) 0b000001111111111000
    = .bankNone (rd 0x1FF8) := by decide

/-- V31. -/
theorem test_decode_bank_f8_0 : decodeStage .bank (ctx .noFault .running .f8 .either) 0b000001111111111000
    = .bankF80 false false := by decide

/-- V32: write 0x1FF9. -/
theorem test_decode_bank_f8_1 : decodeStage .bank (ctx .noFault .running .f8 .either) 0b010001111111111001
    = .bankF81 false true := by decide

/-- V21: the low 13 bits alone make no hotspot. -/
theorem test_decode_bank_f8_nop : decodeStage .bank (ctx .noFault .running .f8 .either) 0b000011111111111001
    = .bankF8Nop (rd 0x3FF9) := by decide

/-- V24. -/
theorem test_decode_bank_f6_0 : decodeStage .bank (ctx .noFault .running .f6 .either) 0x01FF6
    = .bankF60 false false := by decide

/-- V25. -/
theorem test_decode_bank_f6_1 : decodeStage .bank (ctx .noFault .running .f6 .either) 0x01FF7
    = .bankF61 false false := by decide

/-- V26. -/
theorem test_decode_bank_f6_2 : decodeStage .bank (ctx .noFault .running .f6 .either) 0x01FF8
    = .bankF62 false false := by decide

/-- V27. -/
theorem test_decode_bank_f6_3 : decodeStage .bank (ctx .noFault .running .f6 .either) 0x01FF9
    = .bankF63 false false := by decide

/-- V28. -/
theorem test_decode_bank_f6_nop : decodeStage .bank (ctx .noFault .running .f6 .either) 0x01FF5
    = .bankF6Nop (rd 0x1FF5) := by decide

theorem test_decode_bank_f4_0 : decodeStage .bank (ctx .noFault .running .f4 .either) 0x01FF4
    = .bankF40 false false := by decide

theorem test_decode_bank_f4_1 : decodeStage .bank (ctx .noFault .running .f4 .either) 0x01FF5
    = .bankF41 false false := by decide

theorem test_decode_bank_f4_2 : decodeStage .bank (ctx .noFault .running .f4 .either) 0x01FF6
    = .bankF42 false false := by decide

theorem test_decode_bank_f4_3 : decodeStage .bank (ctx .noFault .running .f4 .either) 0x01FF7
    = .bankF43 false false := by decide

theorem test_decode_bank_f4_4 : decodeStage .bank (ctx .noFault .running .f4 .either) 0x01FF8
    = .bankF44 false false := by decide

theorem test_decode_bank_f4_5 : decodeStage .bank (ctx .noFault .running .f4 .either) 0x01FF9
    = .bankF45 false false := by decide

theorem test_decode_bank_f4_6 : decodeStage .bank (ctx .noFault .running .f4 .either) 0x01FFA
    = .bankF46 false false := by decide

theorem test_decode_bank_f4_7 : decodeStage .bank (ctx .noFault .running .f4 .either) 0x01FFB
    = .bankF47 false false := by decide

/-- V35g. -/
theorem test_decode_bank_f4_nop : decodeStage .bank (ctx .noFault .running .f4 .either) 0x01FFC
    = .bankF4Nop (rd 0x1FFC) := by decide

/-- P6: write 0x1FFC. -/
theorem test_decode_bank_fe_observe : decodeStage .bank (ctx .noFault .running .fe .either) 0b010001111111111100
    = .bankFeObserve (wr 0x1FFC) := by decide

/-- V39d. -/
theorem test_decode_data_write : decodeStage .data (ctx .noFault .running .f8 .either) 0b010000000010000000
    = .dataWrite false 0x0080 := by decide

/-- V39. -/
theorem test_decode_data_read : decodeStage .data (ctx .noFault .running .f8 .either) 0b000001111111111111
    = .dataRead false 0x1FFF := by decide

/-- V39a. -/
theorem test_decode_data_outside : decodeStage .data (ctx .noFault .running .f8 .either) 0b000010000000000000
    = .dataOutside (rd 0x2000) := by decide

theorem test_decode_rel : decodeStage .rel (ctx .noFault .running .f8 .either) 0b101111111111111111
    = .rel (cyc 0xFFFF false true) := by decide

/-- R92: with `WriteOnly` a read of a hotspot address is the default row's, with `ReadOnly` a write is. -/
theorem test_decode_trigger_direction :
    decodeStage .bank (ctx .noFault .running .f8 .writeOnly) 0x01FF9 = .bankF8Nop (rd 0x1FF9) ∧
    decodeStage .bank (ctx .noFault .running .f8 .writeOnly) 0x11FF9 = .bankF81 false true ∧
    decodeStage .bank (ctx .noFault .running .f8 .readOnly) 0x11FF8 = .bankF8Nop (wr 0x1FF8) := by decide

/-- R81: a number with a bit above bit 17 is no bus-cycle word. -/
theorem test_decode_wide_number_refused :
    decodeTableWord 18 0x40000 = none ∧ wordOfNat 0x40000 = .error .widerThanBusWord := by decide

theorem test_decode_table_word :
    decodeTableWord 18 0x20000 = some (.gateHold false 0x0000) ∧
    decodeTableWord 18 0x11FF9 = some (.bankF81 false true) ∧
    decodeTableWord 18 0x00080 = some (.dataRead false 0x0080) := by decide

/-- What decodeTableWord reads is what the step after withFetchWord runs, from State.reset (log 11). -/
theorem test_placed_words_run :
    (after (State.reset.withFetchWord 18 0x11FF9)).bank = 1 ∧
    (after (State.reset.withFetchWord 18 0x01FFB)).bank = 7 ∧
    (after (State.reset.withFetchWord 18 0x00080)).out = .drive 0x00 ∧
    (after (State.reset.withFetchWord 18 0x20000)).phase = .idle := by decide

/-! ## Iterations

The bytes listed are those of the test image `T(n)` at the positions the vector reads. -/

/-- V30. -/
theorem test_v30_switch_before_serve :
    look (after (block .f8 8192 0 [(4089, 0xF6), (8185, 0xE6)] (rd 0x1FF9)))
      = (.drive 0xE6, .running, 1, .noFault, false) := by decide

/-- V31, from bank 1. -/
theorem test_v31_f8_bank_0 :
    look (after (block .f8 8192 1 [(4088, 0xF7), (8184, 0xE7)] (rd 0x1FF8)))
      = (.drive 0xF7, .running, 0, .noFault, false) := by decide

/-- V32. -/
theorem test_v32_f8_write :
    look (after (block .f8 8192 0 [(8185, 0xE6)] (wr 0x1FF9)))
      = (.hiZ, .running, 1, .noFault, false) := by decide

/-- V18. -/
theorem test_v18_f8_nop :
    look (after (block .f8 8192 0 [(4087, 0xF8), (8183, 0xE8)] (rd 0x1FF7)))
      = (.drive 0xF8, .running, 0, .noFault, false) := by decide

/-- V20. -/
theorem test_v20_mirror_is_no_hotspot :
    look (after (block .f8 8192 0 [(4089, 0xF6), (8185, 0xE6)] (rd 0x0FF9)))
      = (.drive 0xF6, .running, 0, .noFault, false) := by decide

/-- V23. -/
theorem test_v23_outside_write :
    look (after (block .f8 8192 0 [] (wr 0x3FF9)))
      = (.hiZ, .running, 0, .noFault, false) := by decide

/-- V24. -/
theorem test_v24_f6_0 :
    look (after (block .f6 16384 1 [(4086, 0xF9), (8182, 0xE9)] (rd 0x1FF6)))
      = (.drive 0xF9, .running, 0, .noFault, false) := by decide

/-- V25. -/
theorem test_v25_f6_1 :
    look (after (block .f6 16384 1 [(8183, 0xE8)] (rd 0x1FF7)))
      = (.drive 0xE8, .running, 1, .noFault, false) := by decide

/-- V26. -/
theorem test_v26_f6_2 :
    look (after (block .f6 16384 1 [(8184, 0xE7), (12280, 0xD7)] (rd 0x1FF8)))
      = (.drive 0xD7, .running, 2, .noFault, false) := by decide

/-- V27. -/
theorem test_v27_f6_3 :
    look (after (block .f6 16384 1 [(8185, 0xE6), (16377, 0xC6)] (rd 0x1FF9)))
      = (.drive 0xC6, .running, 3, .noFault, false) := by decide

/-- V28. -/
theorem test_v28_f6_nop :
    look (after (block .f6 16384 1 [(8181, 0xEA)] (rd 0x1FF5)))
      = (.drive 0xEA, .running, 1, .noFault, false) := by decide

/-- V34. -/
theorem test_v34_f4_0 :
    look (after (block .f4 32768 2 [(4084, 0xFB), (12276, 0xDB)] (rd 0x1FF4)))
      = (.drive 0xFB, .running, 0, .noFault, false) := by decide

/-- V35. -/
theorem test_v35_f4_1 :
    look (after (block .f4 32768 2 [(8181, 0xEA), (12277, 0xDA)] (rd 0x1FF5)))
      = (.drive 0xEA, .running, 1, .noFault, false) := by decide

/-- V35a. -/
theorem test_v35a_f4_2 :
    look (after (block .f4 32768 2 [(12278, 0xD9)] (rd 0x1FF6)))
      = (.drive 0xD9, .running, 2, .noFault, false) := by decide

/-- V35b. -/
theorem test_v35b_f4_3 :
    look (after (block .f4 32768 2 [(12279, 0xD8), (16375, 0xC8)] (rd 0x1FF7)))
      = (.drive 0xC8, .running, 3, .noFault, false) := by decide

/-- V35c. -/
theorem test_v35c_f4_4 :
    look (after (block .f4 32768 2 [(12280, 0xD7), (20472, 0xB7)] (rd 0x1FF8)))
      = (.drive 0xB7, .running, 4, .noFault, false) := by decide

/-- V35d. -/
theorem test_v35d_f4_5 :
    look (after (block .f4 32768 2 [(12281, 0xD6), (24569, 0xA6)] (rd 0x1FF9)))
      = (.drive 0xA6, .running, 5, .noFault, false) := by decide

/-- V35e. -/
theorem test_v35e_f4_6 :
    look (after (block .f4 32768 2 [(12282, 0xD5), (28666, 0x95)] (rd 0x1FFA)))
      = (.drive 0x95, .running, 6, .noFault, false) := by decide

/-- V35f. -/
theorem test_v35f_f4_7 :
    look (after (block .f4 32768 2 [(12283, 0xD4), (32763, 0x84)] (rd 0x1FFB)))
      = (.drive 0x84, .running, 7, .noFault, false) := by decide

/-- V33. -/
theorem test_v33_f4_nop :
    look (after (block .f4 32768 2 [(12275, 0xDC)] (rd 0x1FF3)))
      = (.drive 0xDC, .running, 2, .noFault, false) := by decide

/-- V35h. -/
theorem test_v35h_none :
    look (after (block .none 4096 0 [(4088, 0xF7)] (rd 0x1FF8)))
      = (.drive 0xF7, .running, 0, .noFault, false) := by decide

/-- V39. -/
theorem test_v39_last_window_address :
    look (after (block .f8 8192 0 [(4095, 0xF0)] (rd 0x1FFF)))
      = (.drive 0xF0, .running, 0, .noFault, false) := by decide

/-- V39a. -/
theorem test_v39a_above_the_window :
    look (after (block .f8 8192 0 [] (rd 0x2000)))
      = (.hiZ, .running, 0, .noFault, false) := by decide

/-- V39e. -/
theorem test_v39e_halted_is_ignored :
    look (after (block .f8 8192 0 [(4089, 0xF6), (8185, 0xE6)] (cyc 0x1FF9 false true)))
      = (.drive 0xE6, .running, 1, .noFault, false) := by decide

/-- V39f: offset 0x7F8 of a 2048-byte image. -/
theorem test_v39f_half_bank_image :
    look (after (block .none 2048 0 [(2040, 0xFF)] (rd 0x1FF8)))
      = (.drive 0xFF, .running, 0, .noFault, false) := by decide

/-- V40. -/
theorem test_v40_hold :
    look (after ({ block .f8 8192 1 [(8184, 0xE7)] (cyc 0x1FF8 false true) with phase := .idle }))
      = (.hiZ, .idle, 1, .noFault, false) := by decide

/-- V42: the first cycle after release, from the reset bank. -/
theorem test_v42_arm :
    look (after ({ block .f8 8192 1 [(4096, 0x10)] (rd 0x0000) with phase := .idle }))
      = (.drive 0x10, .armed, 1, .noFault, false) := by decide

/-- V43. -/
theorem test_v43_advance :
    look (after ({ block .f8 8192 1 [(4097, 0x11)] (cyc 0x0001 false true) with phase := .armed }))
      = (.drive 0x11, .running, 1, .noFault, false) := by decide

/-- V45. -/
theorem test_v45_first_cycle_is_a_hotspot :
    look (after ({ block .f4 32768 7 [(8181, 0xEA), (32757, 0x8A)] (rd 0x1FF5) with phase := .idle }))
      = (.drive 0xEA, .armed, 1, .noFault, false) := by decide

/-- V46: a stopped block. -/
theorem test_v46_stopped :
    look (after ({ block .f8 8192 1 [(4096, 0x10)] (rd 0x0000) with phase := .idle, fault := .invalidImageSize }))
      = (.hiZ, .idle, 1, .invalidImageSize, false) := by decide

/-- P5: a bank whose bytes the image does not have. -/
theorem test_p5_out_of_range :
    look (after (block .f4 8192 2 [] (rd 0x0000)))
      = (.hiZ, .running, 2, .outOfRange, false) := by decide

/-- V37, third cycle: a write triggers nothing. -/
theorem test_v37_read_only :
    look (after ({ block .f8 8192 1 [] (wr 0x1FF8) with params := params .readOnly }))
      = (.hiZ, .running, 1, .noFault, false) := by decide

/-- V38, first cycle: a read triggers nothing. -/
theorem test_v38_write_only :
    look (after ({ block .f8 8192 0 [(4089, 0xF6), (8185, 0xE6)] (rd 0x1FF9) with params := params .writeOnly }))
      = (.drive 0xF6, .running, 0, .noFault, false) := by decide

/-- Spec/95_test_vectors.md section 5: with the window of bit 12, 0xFFF9 is served and is no hotspot. -/
theorem test_alternative_window :
    look (after { block .f8 8192 0 [(4089, 0xF6), (8185, 0xE6)] (rd 0xFFF9) with
      params := { params .either with windowMask := 0x1000, windowMatch := 0x1000 } })
      = (.drive 0xF6, .running, 0, .noFault, false) := by decide

/-- R167's worked example: `DOUT` keeps the byte that was driven. -/
theorem test_dout_keeps_the_byte_driven :
    (after (block .f8 8192 0 [(0, 0x4D)] (rd 0x0000))).dout = 0x4D ∧
    (after (block .f8 8192 0 [(0, 0x4D)] (wr 0x0000))).dout = 0x4C := by decide

/-- The toy selector of P6, which is no rule of the hardware. -/
def toySelect (h : List HistEntry) : Option Nat :=
  match h with
  | [(a, false), (0x1FFC, false)] => some ((a.toNat / 32) % 2)
  | _ => none

/-- P6, rows 3 and 5: the pattern selects bank 1; a write does not satisfy this instance, and still enters `HIST`. -/
theorem test_p6_fe_plumbing :
    (let s := observeCycle toySelect (rd 0x1FFD)
        { block .fe 32768 3 [] (rd 0) with hist := [(0x1FFC, false), (0x0000, false)] }
     (s.bank, s.hist)) = (1, [(0x1FFD, false), (0x1FFC, false)]) ∧
    (let s := observeCycle toySelect (wr 0x1FFC)
        { block .fe 32768 1 [] (rd 0) with hist := [(0x0000, false), (0x1FFD, false)] }
     (s.bank, s.hist)) = (1, [(0x1FFC, true), (0x0000, false)]) := by decide

/-- V47, last row: a selected bank of 9 stays in `BANK` and the served read raises. -/
theorem test_v47_fe_bank_out_of_range :
    look (serveRead 0x0042 { block .fe 32768 9 [] (rd 0x0042) with fault := .noFault })
      = (.hiZ, .running, 9, .outOfRange, false) := by decide

/-- V1 and V11d: the length is refused whatever the tag. -/
theorem test_v1_v11d_load_refuses_the_length :
    (after (unloaded [] none)).fault = .invalidImageSize ∧
    (after (unloaded [0x12, 0x34] (some .f8))).fault = .invalidImageSize := by decide

/-- V6, V7: inference by length; V8: no inference. -/
theorem test_v6_v7_v8_inference :
    inferScheme 4096 = some .none ∧ inferScheme 8192 = some .f8 ∧ inferScheme 16384 = some .f6 ∧
    inferScheme 32768 = none := by decide

/-- V17a, V17b, V17c, V17e. -/
theorem test_v17_byte_at_bounds :
    (byteAt (block .f8 8192 0 [] (rd 0)) 0 0x1000).toOption = none ∧
    (byteAt (block .f8 8192 0 [] (rd 0)) 2 0).toOption = none ∧
    (byteAt (block .f4 32768 0 [] (rd 0)) 8 0).toOption = none ∧
    (byteAt (block .f4 8192 0 [(8191, 0xE0)] (rd 0)) 1 0xFFF).toOption = some 0xE0 ∧
    (byteAt (block .f4 8192 0 [] (rd 0)) 2 0).toOption = none := by decide

/-- The image lists the bytes that are not zero, in order. -/
theorem test_image_is_canonical :
    Memory.ofBytes [0x00, 0x07, 0x00, 0x09] = [(1, 0x07), (3, 0x09)] ∧
    Memory.wf [(3, 0x09), (1, 0x07)] = false ∧ Memory.wf [(1, 0x00)] = false := by decide

/-- A power cycle: the fault is cleared, the phase `Idle`, the block not loaded. -/
theorem test_power_cycle :
    (let t := after { block .f8 8192 1 [] (rd 0) with fault := .outOfRange, input := [.powerCycle] }
     (t.fault, t.phase, t.loaded, t.oe)) = (.noFault, .idle, false, false) := by decide

/-! ## Witnesses: a state that meets the hypotheses of each statement, clause by clause -/

theorem test_witness_decode_recovers :
    Instr.wf (ctx .outOfRange .idle .f8 .either) (.gateStopped (rd 0xFFFF)) = true ∧
    Instr.wf (ctx .noFault .idle .f8 .either) (.gateHold true 0xFFFF) = true ∧
    Instr.wf (ctx .noFault .running .f4 .writeOnly) (.bankF47 true true) = true ∧
    Instr.wf (ctx .noFault .running .f8 .either) (.bankF8Nop (rd 0x1FFA)) = true ∧
    Instr.wf (ctx .noFault .running .f8 .either) (.dataRead false 0x1FFF) = true ∧
    Instr.wf (ctx .noFault .running .f8 .either) (.dataOutside (rd 0x2000)) = true := by decide

/-- Of StepRunsTheDecodedOperations, StepIsTheReferenceIteration, LinesAreReleasedAfterEveryCycle,
WindowDoesNotAffectTheBank: a bus cycle is presented. -/
theorem test_witness_presents : Presents (block .f8 8192 0 [] (rd 0x1FFF)) (rd 0x1FFF) := ⟨rfl, rfl⟩

theorem test_witness_placed_word : decodeTableWord 18 0x3FFFF = some (.gateHold true 0xFFFF) := by decide

/-- Of EveryStepKeepsTheInvariant: the last bank, the last position listed. -/
theorem test_witness_invariant :
    Inv (block .f8 8192 1 [(0, 0x01), (8191, 0xE0)] (rd 0)) ∧
    ∃ t, step (block .f8 8192 1 [(0, 0x01), (8191, 0xE0)] (rd 0)) = .next t := by
  refine ⟨?_, _, rfl⟩
  constructor <;> first | decide | (unfold imageInside; decide)

theorem test_witness_hotspot_of :
    hotspotOf (.bankF80 false true) = some (.f8, 0) ∧ hotspotOf (.bankF63 false true) = some (.f6, 3) ∧
    hotspotOf (.bankF47 false true) = some (.f4, 7) := by decide

/-- Of DataReadServesOrRaises and ServedReadDrivesTheImageByte: the last valid location; an offset, a bank and an index
that are one too large. -/
theorem test_witness_data_read :
    (let s := block .f8 8192 1 [] (rd 0x1FFF)
     0xFFF < bankSize s.scheme s.len ∧ s.bank < bankCount s.scheme ∧ s.bank * 4096 + 0xFFF < s.len ∧
     gateOpen s (rd 0x1FFF) = true ∧ inWindow s.params 0x1FFF = true ∧ bankAfter s (rd 0x1FFF) = 1) ∧
    (let s := block .none 0 0 [] (rd 0)
     bankSize s.scheme s.len ≤ ((0x0000 : Address) &&& offsetMask s.scheme s.len).toNat) ∧
    (let s := block .f8 32768 2 [] (rd 0)
     bankCount s.scheme ≤ bankAfter s (rd 0)) ∧
    (let s := block .f4 8192 2 [] (rd 0)
     s.len ≤ bankAfter s (rd 0) * bankSize s.scheme s.len + 0) := by decide

/-- Of EachStageWritesOnlyWhatItOwns: an operation of each stage answers a next state. -/
theorem test_witness_stages :
    (∃ t, exec (.gateArm false 0) (block .f8 8192 0 [] (rd 0)) = .next t) ∧
    (∃ t, exec (.bankF81 false false) (block .f8 8192 0 [] (rd 0)) = .next t) ∧
    (∃ t, exec (.dataRead false 0) (block .f8 8192 0 [] (rd 0)) = .next t) ∧
    (∃ t, exec (.rel (rd 0)) (block .f8 8192 0 [] (rd 0)) = .next t) :=
  ⟨⟨_, rfl⟩, ⟨_, rfl⟩, ⟨_, rfl⟩, ⟨_, rfl⟩⟩

/-- Of StoppedBlockDoesNothing. -/
theorem test_witness_stopped :
    Presents { block .f8 8192 0 [] (rd 0) with fault := .outOfRange } (rd 0) ∧ FaultKind.outOfRange ≠ .noFault :=
  ⟨⟨rfl, rfl⟩, by decide⟩

/-- Of HeldBlockKeepsItsState: two held cycles, one at a hotspot. -/
theorem test_witness_held :
    let s := { block .f8 8192 1 [] (rd 0) with
      phase := .idle, input := [.cycle (cyc 0x1FF8 false true), .cycle (cyc 0x0000 true true)] }
    s.loaded = true ∧ s.fault = .noFault ∧ s.phase = .idle ∧ s.oe = false ∧ s.out = .hiZ ∧
    s.input = [cyc 0x1FF8 false true, cyc 0x0000 true true].map Event.cycle := by decide

/-- Of ReleaseArmsAndServesItsCycle, both clauses. -/
theorem test_witness_release :
    let s := { block .f8 8192 1 [] (rd 0) with phase := .idle }
    Presents s (rd 0x0000) ∧ s.fault = .noFault ∧ s.bank = resetBank s.params .f8 ∧
    inWindow s.params 0x0000 = true ∧ Inv s := by
  refine ⟨⟨rfl, rfl⟩, rfl, rfl, by decide, ?_⟩
  constructor <;> first | decide | (unfold imageInside; decide)

/-- Of ArmedAndRunningBlocksServeEveryCycle and PhaseTransitionsAreTheLegalOnes. -/
theorem test_witness_armed :
    Presents { block .f8 8192 1 [] (cyc 1 false true) with phase := .armed } (cyc 1 false true) ∧
    Presents (block .f8 8192 1 [] (cyc 1 false true)) (cyc 1 false true) ∧
    (∃ t, step { block .f8 8192 1 [] (cyc 1 false true) with phase := .armed } = .next t) :=
  ⟨⟨rfl, rfl⟩, ⟨rfl, rfl⟩, ⟨_, rfl⟩⟩

/-- Of HaltLineHasNoEffectOnceArmed: runs whose halt samples differ. -/
theorem test_witness_halt_samples :
    [cyc 1 false true, cyc 2 true false].map (fun c => (c.address, c.isWrite))
      = [cyc 1 false false, cyc 2 true true].map (fun c => (c.address, c.isWrite)) ∧
    (block .f8 8192 1 [] (rd 0)).phase ≠ .idle ∧
    exec (.gateHold false 0) { block .f8 8192 1 [] (rd 0) with phase := .idle }
      = .next { block .f8 8192 1 [] (rd 0) with phase := .idle } :=
  ⟨by decide, by decide, rfl⟩

/-- Of HotspotAccessSelectsItsBank: each scheme's first and last hotspot and its two neighbours. -/
theorem test_witness_hotspot_access :
    (∀ a ∈ [0x1FF7, 0x1FF8, 0x1FF9, 0x1FFA], Presents (block .f8 8192 0 [] (rd a)) (rd a)) ∧
    (∀ a ∈ [0x1FF5, 0x1FF6, 0x1FF9, 0x1FFA], Presents (block .f6 16384 0 [] (rd a)) (rd a)) ∧
    (∀ a ∈ [0x1FF3, 0x1FF4, 0x1FFB, 0x1FFC], Presents (block .f4 32768 0 [] (rd a)) (rd a)) ∧
    gateOpen (block .f8 8192 0 [] (rd 0x1FF8)) (rd 0x1FF8) = true ∧ dirOk (params .either).triggerF8 false = true :=
  ⟨fun _ _ => ⟨rfl, rfl⟩, fun _ _ => ⟨rfl, rfl⟩, fun _ _ => ⟨rfl, rfl⟩, by decide, by decide⟩

/-- Of NonQualifyingCycleKeepsTheBank, HistoryIsFedUnderFeOnly and FeServesOrFaultsByTheBankItSelects. -/
theorem test_witness_not_qualifying :
    Presents (block .f8 8192 1 [] (wr 0x1FF7)) (wr 0x1FF7) ∧
    qualifies (params .either) .f8 (wr 0x1FF7) = false ∧ qualifies (params .either) .f6 (rd 0x1FFA) = false ∧
    qualifies (params .either) .f4 (rd 0x1FFC) = false ∧
    Presents (block .fe 32768 1 [] (rd 0x1FFF)) (rd 0x1FFF) ∧
    gateOpen (block .fe 32768 1 [] (rd 0x1FFF)) (rd 0x1FFF) = true ∧
    readInWindow (block .fe 32768 1 [] (rd 0x1FFF)) (rd 0x1FFF) = true ∧
    readInWindow (block .fe 32768 1 [] (rd 0x2000)) (rd 0x2000) = false ∧
    gateOpen { block .fe 32768 1 [] (cyc 0 false true) with phase := .idle } (cyc 0 false true) = false :=
  ⟨⟨rfl, rfl⟩, by decide, by decide, by decide, ⟨rfl, rfl⟩, by decide, by decide, by decide, by decide⟩

/-- Of UnswitchedSchemeStaysInBankZero and MatchingImageNeverFaults. -/
theorem test_witness_unswitched :
    let s := block .none 4096 0 [(4095, 0xF0)] (rd 0x1FF8)
    Inv s ∧ configured s = true ∧ Presents s (rd 0x1FF8) ∧ tagMatchesLength s = true := by
  refine ⟨?_, by decide, ⟨rfl, rfl⟩, by decide⟩
  constructor <;> first | decide | (unfold imageInside; decide)

/-- Of BankIsThatOfTheLatestQualifyingCycle and ConfigurationIsImmutable. -/
theorem test_witness_latest_qualifying :
    let s := { block .f4 32768 7 [] (rd 0) with input := [.cycle (rd 0x1FF4), .cycle (rd 0x1FFC)] }
    s.loaded = true ∧ s.fault = .noFault ∧ s.phase ≠ .idle ∧ tagMatchesLength s = true ∧
    s.bank < bankCount s.scheme ∧ s.input = [rd 0x1FF4, rd 0x1FFC].map Event.cycle ∧
    bankOfLatest s.params .f4 s.bank [rd 0x1FF4, rd 0x1FFC] = 0 ∧
    bankOfLatest s.params .f4 s.bank [rd 0x1FFC] = 7 := by
  decide

/-- Of ServedReadDrivesTheImageByte, its worked example: the premises hold of a block with the default parameters. -/
theorem test_witness_served_example :
    let s := { block .f8 8192 0 [] (rd 0) with
      params := Config.params, input := [.cycle (rd 0x1FF9), .cycle (rd 0x0000)] }
    s.loaded = true ∧ s.fault = .noFault ∧ s.scheme = .f8 ∧ s.len = 8192 ∧ s.params = Config.params ∧
    s.input = [.cycle (rd 0x1FF9), .cycle (rd 0x0000)] :=
  ⟨rfl, rfl, rfl, rfl, rfl, rfl⟩

/-- Of WritesAndOutsideReadsDriveNothing: the first address outside; and a cycle that changes nothing. -/
theorem test_witness_undriven :
    Presents (block .f8 8192 0 [] (rd 0x2000)) (rd 0x2000) ∧ inWindow (params .either) 0x2000 = false ∧
    inWindow (params .either) 0x1FFF = true ∧ (wr 0x1FFF).isWrite = true ∧
    qualifies (params .either) .f8 (rd 0x2000) = false :=
  ⟨⟨rfl, rfl⟩, by decide, by decide, rfl, by decide⟩

/-- Of DriveHappensOnlyInAServedRead and HotspotReadIsServedFromItsNewBank: a read of a hotspot drives. -/
theorem test_witness_hotspot_read :
    let s := block .f8 8192 0 [(8185, 0xE6)] (rd 0x1FF9)
    Presents s (rd 0x1FF9) ∧ (∃ t, step s = .next t ∧ t.out = .drive 0xE6) ∧
    gateOpen s (rd 0x1FF9) = true ∧ hotspotBase s.scheme = some 0x1FF8 ∧
    qualifies s.params s.scheme (rd 0x1FF9) = true ∧ inWindow s.params 0x1FF9 = true ∧ tagMatchesLength s = true :=
  ⟨⟨rfl, rfl⟩, ⟨_, rfl, by decide⟩, by decide, by decide, by decide, by decide, by decide⟩

/-- Of RepeatedCycleChangesNothing: the same cycle twice. -/
theorem test_witness_repeated :
    let s := { block .f8 8192 0 [(8185, 0xE6)] (rd 0x1FF9) with input := [.cycle (rd 0x1FF9), .cycle (rd 0x1FF9)] }
    Presents s (rd 0x1FF9) ∧ s.phase = .running ∧ s.scheme ≠ .fe ∧
    ∃ t, step s = .next t ∧ Presents t (rd 0x1FF9) :=
  ⟨⟨rfl, rfl⟩, rfl, by decide, ⟨_, rfl, rfl, rfl⟩⟩

theorem test_witness_masked_offset :
    supportedSize 2048 = true ∧ supportedSize 32768 = true ∧ 0x7FF < bankSize .none 2048 ∧
    0xFFF < bankSize .fe 32768 := by decide

/-- Of OtherBanksDoNotAffectTheOutput: two images that differ in the other bank alone. -/
theorem test_witness_other_banks :
    let s := block .f8 8192 0 [(1, 0x11), (4096, 0x22)] (rd 0x0001)
    Presents s (rd 0x0001) ∧ s.image ≠ [(1, 0x11)] ∧
    ∀ offset, offset < bankSize s.scheme s.len →
      Memory.read [(1, 0x11)] (bankAfter s (rd 0x0001) * bankSize s.scheme s.len + offset)
        = s.image.read (bankAfter s (rd 0x0001) * bankSize s.scheme s.len + offset) := by
  refine ⟨⟨rfl, rfl⟩, by decide, fun offset h => ?_⟩
  have hb : bankAfter (block .f8 8192 0 [(1, 0x11), (4096, 0x22)] (rd 0x0001)) (rd 0x0001) = 0 := by decide
  have hz : bankSize (block .f8 8192 0 [(1, 0x11), (4096, 0x22)] (rd 0x0001)).scheme
      (block .f8 8192 0 [(1, 0x11), (4096, 0x22)] (rd 0x0001)).len = 4096 := rfl
  rw [hz] at h
  have hne : (4096 : Nat) ≠ offset := by omega
  rw [hb, Nat.zero_mul, Nat.zero_add]
  exact congrArg (fun x => if 1 = offset then (0x11 : Byte) else x) (if_neg hne).symm

/-- Of OutOfRangeIsPrecise and IterationRaisesOnlyOutOfRange. -/
theorem test_witness_out_of_range :
    let s := block .f4 8192 2 [] (rd 0x0000)
    Presents s (rd 0x0000) ∧ gateOpen s (rd 0x0000) = true ∧ readInWindow s (rd 0x0000) = true ∧
    (lookupAfter s (rd 0x0000)).toOption = none ∧ ∃ t, step s = .next t ∧ t.fault ≠ s.fault :=
  ⟨⟨rfl, rfl⟩, by decide, by decide, by decide, ⟨_, rfl, by decide⟩⟩

/-- Of OnlyAPowerCycleResets, both clauses. -/
theorem test_witness_power_cycle :
    let s := { block .f8 8192 1 [] (rd 0) with fault := .outOfRange, input := [.powerCycle] }
    PowersOff s ∧ ∃ t, step s = .next t ∧ s.fault ≠ .noFault ∧ t.fault = .noFault :=
  ⟨⟨rfl, rfl⟩, ⟨_, rfl, by decide, rfl⟩⟩

/-- Of LoadRefusesWhatItCannotServe: the lengths on both sides of a supported one, and the tagless 32768. -/
theorem test_witness_load_refuses :
    (unloaded [] none).loaded = false ∧ (unloaded [] none).fault = .noFault ∧
    (∀ n, (unloaded (List.replicate n 0x5A) none).persisted.bytes.length = n) ∧
    2047 ∉ [2048, 4096, 8192, 16384, 32768] ∧ 32768 ∈ [2048, 4096, 8192, 16384, 32768] ∧
    (unloaded (List.replicate 32768 0x5A) none).persisted.tag = none ∧
    Presents { block .f8 8192 0 [] (rd 0) with fault := .ambiguousScheme } (rd 0) ∧
    (∃ t, step { block .f8 8192 0 [] (rd 0) with fault := .ambiguousScheme } = .next t ∧
      t.fault = .ambiguousScheme) := by
  exact ⟨rfl, rfl, fun n => List.length_replicate, by decide, by decide, rfl, ⟨rfl, rfl⟩, ⟨_, rfl, rfl⟩⟩

/-- Of LoadEstablishesTheConfiguration and EveryLoadedByteIsReturned: a load that succeeds, tagged and not. -/
theorem test_witness_load_succeeds (bytes : List Byte) (h : bytes.length = 2048) :
    let s := unloaded bytes none
    s.loaded = false ∧ s.fault = .noFault ∧ s.persisted.bytes.length ∈ [2048, 4096, 8192, 16384, 32768] ∧
    (s.persisted.tag = none ∧
      (s.persisted.bytes.length, Scheme.none) ∈ [(2048, Scheme.none), (4096, .none), (8192, .f8), (16384, .f6)]) ∧
    (unloaded bytes (some .fe)).persisted.tag = some .fe ∧
    ∃ t, step s = .next t ∧ t.fault = .noFault ∧ 2047 < bankCount t.scheme * bankSize t.scheme t.len := by
  have hl : load { bytes := bytes, tag := none }
      = .ok { image := Memory.ofBytes bytes, len := bytes.length, scheme := .none } := by
    simp [load, supportedSize, inferScheme, h]
  refine ⟨rfl, rfl, by simp [unloaded, h], ⟨rfl, by simp [unloaded, h]⟩, rfl, ?_⟩
  refine ⟨_, step_unloaded rfl, ?_⟩
  rw [bootLoad_ok (show load (unloaded bytes none).persisted = _ from hl)]
  refine ⟨rfl, ?_⟩
  show 2047 < 1 * min bytes.length 4096
  rw [h]
  decide

theorem test_witness_a_loadable_length : (List.replicate 2048 (0x5A : Byte)).length = 2048 :=
  List.length_replicate

/-- Of ByteAtChecksEveryBound, the example clause. -/
theorem test_witness_byte_at : (block .f8 8192 0 [] (rd 0)).scheme = .f8 ∧ (block .f8 8192 0 [] (rd 0)).len = 8192 :=
  ⟨rfl, rfl⟩

end Sys2Proof.Tests
end

/-! PROOFS. The encoding family (spec/30_encoding.md): the word's fields (R82), the hotspot rows (R92) and the rows of
stage DATA (R93). -/

namespace Sys2Proof

open Sys2Proof.Machine

/-! ## The fields of the word (R82) -/

theorem BusCycle.getLsbD_ofWord_address (w : Word) {i : Nat} (hi : i < 16) :
    (BusCycle.ofWord w).address.getLsbD i = w.getLsbD i := by
  have h := BusCycle.word_getLsbD (BusCycle.ofWord w) i
  rw [BusCycle.word_ofWord, if_pos hi] at h
  exact h.symm

/-- Settles O3: the flags are the two top bits by definition of the decoder, the address is read bit by bit. -/
theorem wordFieldsArePlainExtraction : Obligations.WordFieldsArePlainExtraction := by
  unfold Obligations.WordFieldsArePlainExtraction
  intro w
  exact ⟨rfl, rfl, fun _ hi => BusCycle.getLsbD_ofWord_address w hi⟩

/-! ## The rows of the hotspots (R92) -/

theorem hotspotHits_iff (t : TriggerDir) (a : Address) (c : BusCycle) :
    hotspotHits t a c.word = true ↔ c.address = a ∧ dirOk t c.isWrite = true := by
  rw [hotspotHits_word, Bool.and_eq_true, beq_iff_eq]

/-- Settles O5: masks, matches and defaults are the definitions' own; which cycles a row admits is
`hotspotHits_iff` with `dirOk` of each direction. -/
theorem hotspotRowsFollowTheTriggerDirection : Obligations.HotspotRowsFollowTheTriggerDirection := by
  unfold Obligations.HotspotRowsFollowTheTriggerDirection
  intro a c
  refine ⟨⟨rfl, rfl⟩, ⟨rfl, rfl⟩, ⟨rfl, rfl⟩, ?either, ?readOnly, ?writeOnly, rfl, rfl, rfl⟩
  case either => simp [hotspotHits_iff, dirOk]
  case readOnly => simp [hotspotHits_iff, dirOk]
  case writeOnly => exact hotspotHits_iff .writeOnly a c

/-! ## The rows of stage DATA (R93) -/

theorem decodeData_eq_dataRead_iff (x : DecodeContext) (w : Word) :
    (∃ h a, decodeData x w = .dataRead h a) ↔
      w.getLsbD 16 = false ∧ inWindow x.params (w.extractLsb' 0 16) = true := by
  change _ ↔ (BusCycle.ofWord w).isWrite = false ∧ inWindow x.params (BusCycle.ofWord w).address = true
  have htable := decodeData_word x (BusCycle.ofWord w)
  rw [BusCycle.word_ofWord] at htable
  rw [htable]
  cases (BusCycle.ofWord w).isWrite
  · cases inWindow x.params (BusCycle.ofWord w).address <;> simp
  · simp

theorem and_dataReadMask_eq_windowMatch_iff (p : Params) (w : Word) :
    (w &&& (0x10000 ||| p.windowMask.setWidth 18)) = p.windowMatch.setWidth 18 ↔
      w.getLsbD 16 = false ∧ inWindow p (w.extractLsb' 0 16) = true := by
  have h := rowHits_window p (BusCycle.ofWord w)
  rw [BusCycle.word_ofWord, Bool.eq_iff_iff, rowHits, beq_iff_eq, Bool.and_eq_true, Bool.not_eq_true'] at h
  exact h

/-- An operation of stage DATA with its halt sample flipped; the operations of the other stages are left alone. -/
def Instr.flipDataHalt : Instr → Instr
  | .dataWrite h a => .dataWrite (!h) a
  | .dataRead h a => .dataRead (!h) a
  | .dataOutside c => .dataOutside { c with halted := !c.halted }
  | i => i

theorem Instr.flipDataHalt_involutive : Function.Involutive Instr.flipDataHalt := by
  intro i
  cases i <;> simp [Instr.flipDataHalt]

/-- Bit 17 is in no mask of stage DATA: flipping it flips the halt sample of the operation selected, and that alone. -/
theorem decodeData_flip_halted (x : DecodeContext) (w : Word) :
    decodeData x (w ^^^ 0x20000) = (decodeData x w).flipDataHalt := by
  rw [← BusCycle.word_ofWord w, ← BusCycle.word_ofWord ((BusCycle.ofWord w).word ^^^ 0x20000),
    BusCycle.ofWord_flip_halted, BusCycle.ofWord_word]
  simp only [decodeData_word]
  split
  · rfl
  · split <;> rfl

theorem decodeData_eq_iff_flip_halted (x : DecodeContext) (w : Word) (i : Instr) :
    decodeData x w = i ↔ decodeData x (w ^^^ 0x20000) = i.flipDataHalt := by
  rw [decodeData_flip_halted, Instr.flipDataHalt_involutive.injective.eq_iff]

/-- Settles O6: the row's mask test and the test of the fields agree by `rowHits_window`; the flip of bit 17 acts on
the selected operation as the injective `Instr.flipDataHalt`. -/
theorem dataReadRowFollowsTheWindow : Obligations.DataReadRowFollowsTheWindow := by
  unfold Obligations.DataReadRowFollowsTheWindow
  intro x w
  have hread := decodeData_eq_dataRead_iff x w
  refine ⟨hread.trans (and_dataReadMask_eq_windowMatch_iff x.params w).symm, ?fields, fun h a => ?write,
    fun h a => ?read, fun c => ?outside⟩
  case fields =>
    rw [inWindow, beq_iff_eq] at hread
    exact hread
  case write => exact decodeData_eq_iff_flip_halted x w (.dataWrite h a)
  case read => exact decodeData_eq_iff_flip_halted x w (.dataRead h a)
  case outside => exact decodeData_eq_iff_flip_halted x w (.dataOutside c)

end Sys2Proof

/-! PROOFS. The image store family (spec/40_image_store.md): every byte loaded is returned (R116), and nothing writes
the configuration afterwards (R118). -/

namespace Sys2Proof

open Sys2Proof.Machine

/-! ## Every byte loaded is returned (R116) -/

namespace Machine

/-- A position of the image inside `LEN` and inside the banks is looked up by its quotient and remainder. -/
theorem byteAt_div_mod {s : State} {i : Nat} (hlen : i < s.len)
    (hbanks : i < bankCount s.scheme * bankSize s.scheme s.len) :
    byteAt s (i / bankSize s.scheme s.len) (i % bankSize s.scheme s.len) = .ok (s.image.read i) := by
  have hsize : 0 < bankSize s.scheme s.len := Nat.pos_of_lt_mul_left hbanks
  have hbank := Nat.div_lt_of_lt_mul (Nat.mul_comm _ _ ▸ hbanks)
  have hoffset := Nat.mod_lt i hsize
  have hindex : imageIndex s (i / bankSize s.scheme s.len) (i % bankSize s.scheme s.len) = i :=
    Nat.div_add_mod' i _
  rcases byteAt_cases s (i / bankSize s.scheme s.len) (i % bankSize s.scheme s.len) with
    ⟨-, -, -, hok⟩ | ⟨hout, -⟩
  · rw [hok, hindex]
  · rw [hindex] at hout
    omega

/-- A load that leaves no fault has established the image of the bytes supplied. -/
theorem bootLoad_of_noFault {s : State} (h : (bootLoad s).fault = .noFault) :
    (bootLoad s).image = Memory.ofBytes s.persisted.bytes ∧ (bootLoad s).len = s.persisted.bytes.length := by
  rcases load_cases s.persisted with ⟨-, hl⟩ | ⟨-, -, -, hl⟩ | ⟨-, sch, -, hl⟩
  · simp [bootLoad_error hl] at h
  · simp [bootLoad_error hl] at h
  · simp [bootLoad_ok hl]

end Machine

/-- Settles O48: the load leaves the image of the bytes supplied, the lookup reads position `i` of it, and an image
reads back the bytes it was made of. -/
theorem everyLoadedByteIsReturned : Obligations.EveryLoadedByteIsReturned := by
  unfold Obligations.EveryLoadedByteIsReturned
  intro s t hloaded _ hstep hfault i hi hbanks
  obtain rfl := step_unique (step_unloaded hloaded) hstep
  obtain ⟨himage, hlen⟩ := bootLoad_of_noFault hfault
  rw [byteAt_div_mod (hlen ▸ hi) hbanks, himage, Memory.read_ofBytes _ i hi]

/-! ## The configuration is immutable (R118) -/

namespace Machine

/-- `t` has the configuration of `s`: the image, its length and the scheme, the parameters, and the artifact they were
loaded from. -/
structure SameConfiguration (s t : State) : Prop where
  image     : t.image = s.image
  len       : t.len = s.len
  scheme    : t.scheme = s.scheme
  params    : t.params = s.params
  persisted : t.persisted = s.persisted
  loaded    : t.loaded = s.loaded

theorem SameConfiguration.refl (s : State) : SameConfiguration s s :=
  ⟨rfl, rfl, rfl, rfl, rfl, rfl⟩

theorem SameConfiguration.trans {s t u : State} (hst : SameConfiguration s t) (htu : SameConfiguration t u) :
    SameConfiguration s u :=
  ⟨htu.image.trans hst.image, htu.len.trans hst.len, htu.scheme.trans hst.scheme, htu.params.trans hst.params,
    htu.persisted.trans hst.persisted, htu.loaded.trans hst.loaded⟩

theorem SameConfiguration.byteAt_eq {s t : State} (h : SameConfiguration s t) (bank offset : Nat) :
    byteAt t bank offset = byteAt s bank offset :=
  byteAt_congr h.image h.len h.scheme bank offset

theorem serveRead_sameConfiguration (a : Address) (s : State) : SameConfiguration s (serveRead a s) := by
  cases hb : byteAt s s.bank (lookupOffset s.scheme s.len a) with
  | ok b => rw [serveRead_ok hb]; exact ⟨rfl, rfl, rfl, rfl, rfl, rfl⟩
  | error k => rw [serveRead_error hb]; exact ⟨rfl, rfl, rfl, rfl, rfl, rfl⟩

theorem observeCycle_sameConfiguration (select : List HistEntry → Option Nat) (c : BusCycle) (s : State) :
    SameConfiguration s (observeCycle select c s) :=
  ⟨observeCycle_image .., observeCycle_len .., observeCycle_scheme .., observeCycle_params ..,
    observeCycle_persisted .., observeCycle_loaded ..⟩

/-- Only `DATA_READ` and `BANK_FE_OBSERVE` branch on the state; every other operation writes fixed registers, none of
them of the configuration. -/
theorem exec_sameConfiguration {i : Instr} {s t : State} (h : exec i s = .next t) : SameConfiguration s t := by
  cases i <;> cases h
  case dataRead _ address => exact serveRead_sameConfiguration address s
  case bankFeObserve c => exact observeCycle_sameConfiguration Config.feSelect c s
  all_goals exact ⟨rfl, rfl, rfl, rfl, rfl, rfl⟩

theorem execAll_sameConfiguration {is : List Instr} {s t : State} (h : execAll is s = .next t) :
    SameConfiguration s t := by
  induction is generalizing s with
  | nil =>
    cases h
    exact .refl _
  | cons i is ih =>
    obtain ⟨u, hu⟩ := exec_next i s
    rw [execAll_cons hu] at h
    exact (exec_sameConfiguration hu).trans (ih h)

theorem runCycle_sameConfiguration {c : BusCycle} {s t : State} (h : runCycle c s = .next t) :
    SameConfiguration s t := by
  have hbegin : SameConfiguration s (beginIteration s) := ⟨rfl, rfl, rfl, rfl, rfl, rfl⟩
  exact hbegin.trans (execAll_sameConfiguration h)

/-- A bus cycle is answered by a next state that has consumed it and kept the configuration. -/
theorem step_presents_next {s : State} {c : BusCycle} (h : Presents s c) :
    ∃ t, step s = .next t ∧ t.input = s.input.tail ∧ SameConfiguration s t := by
  obtain ⟨t, ht, hinput⟩ : ∃ t, step s = .next t ∧ t.input = s.input.tail := by
    cases hg : gateOpen s c with
    | false => exact ⟨_, step_shut h hg, rfl⟩
    | true =>
      refine ⟨_, step_open h hg, ?_⟩
      rcases openState_cases c s with ⟨-, e⟩ | ⟨-, b, -, e⟩ | ⟨-, -, e⟩ <;> rw [e]
  exact ⟨t, ht, hinput, runCycle_sameConfiguration (step_presents h ▸ ht)⟩

theorem runSteps_cycles_sameConfiguration {cs : List BusCycle} {s : State} (hloaded : s.loaded = true)
    (hinput : s.input = cs.map Event.cycle) :
    ∃ t, runSteps cs.length s = .next t ∧ SameConfiguration s t := by
  induction cs generalizing s with
  | nil => exact ⟨s, rfl, .refl s⟩
  | cons c cs ih =>
    obtain ⟨u, hstep, htail, hsu⟩ := step_presents_next (presents_of_input hloaded hinput)
    rw [hinput] at htail
    obtain ⟨t, hrun, hut⟩ := ih (hsu.loaded.trans hloaded) htail
    exact ⟨t, (runSteps_succ hstep cs.length).trans hrun, hsu.trans hut⟩

end Machine

/-- Settles O49: each operation keeps the configuration, so each iteration does, and by induction on the bus cycles
each run; `byte_at` depends on the configuration alone. -/
theorem configurationIsImmutable : Obligations.ConfigurationIsImmutable := by
  unfold Obligations.ConfigurationIsImmutable
  constructor
  · intro i s t h
    obtain ⟨himage, hlen, hscheme, hparams, hpersisted, hloaded⟩ := exec_sameConfiguration h
    exact ⟨himage, hlen, hscheme, hparams, hpersisted, hloaded⟩
  · intro cs s hloaded hinput
    obtain ⟨t, hrun, hst⟩ := runSteps_cycles_sameConfiguration hloaded hinput
    exact ⟨t, hrun, hst.image, hst.len, hst.scheme, hst.params, hst.byteAt_eq⟩

end Sys2Proof

/-! PROOFS. The bank state machine family (spec/41_bank_state_machine.md): an access to a hotspot selects its bank
(R132 to R134), a cycle that does not qualify leaves the bank (R137). -/

namespace Sys2Proof

open Sys2Proof.Machine Sys2Proof.Laws

/-! ## The hotspot rows (R132 to R134) -/

namespace Machine

theorem stage_of_hotspotOf {i : Instr} {sch : Scheme} {n : Nat} (hi : hotspotOf i = some (sch, n)) :
    i.stage = .bank := by
  cases i <;> cases hi <;> rfl

theorem exec_of_hotspotOf {i : Instr} {sch : Scheme} {n : Nat} (hi : hotspotOf i = some (sch, n)) (s : State) :
    exec i s = .next { s with bank := n } := by
  cases i <;> cases hi <;> rfl

theorem wf_of_hotspotOf {i : Instr} {sch : Scheme} {n : Nat} (hi : hotspotOf i = some (sch, n)) (x : DecodeContext) :
    i.wf x = hotspotRowHolds x sch (triggerDir x.params sch) i.cycle.isWrite := by
  cases i <;> cases hi <;> rfl

/-- A hotspot row whose word is presented, in a direction its scheme triggers on: the table selects it by the round
trip, and since running it is stage BANK's effect, the bank it writes is the one stage BANK leaves. -/
theorem selectsBank_of_hotspotOf {s : State} {c : BusCycle} {i : Instr} {sch : Scheme} {n : Nat}
    (hopen : gateOpen s c = true) (hscheme : s.scheme = sch)
    (hdir : dirOk (triggerDir s.params sch) c.isWrite = true) (hi : hotspotOf i = some (sch, n))
    (hround : RoundTrip.Statement i) (hcycle : i.cycle = c) : SelectsBank s (openState c s) c i n := by
  have hwf : i.wf (context s) = true := by
    rw [wf_of_hotspotOf hi, hcycle]
    simp [hotspotRowHolds, context, hscheme, hdir]
  have hdecode : decodeBank (context s) c.word = i := by
    have h := hround (context s) hwf
    rwa [stage_of_hotspotOf hi, encode_eq, hcycle] at h
  have hbank : bankAfter s c = n := by
    have h := exec_decodeBank (context s) c s rfl rfl
    rw [hdecode, exec_of_hotspotOf hi, Host.Outcome.next.injEq] at h
    exact (congrArg State.bank h).symm
  obtain ⟨-, hopenBank, -, -⟩ := openState_fields hopen
  exact ⟨hdecode, exec_of_hotspotOf hi, hopenBank.trans hbank⟩

end Machine

theorem BusCycle.eq_of_address {c : BusCycle} {a : Address} (h : c.address = a) :
    { address := a, isWrite := c.isWrite, halted := c.halted } = c :=
  h ▸ rfl

/-! ## The default rows (R137) -/

/-- The last row of a scheme's table in stage BANK, which takes every cycle that the rows above it do not. -/
def Scheme.defaultRow (c : BusCycle) : Scheme → Instr
  | .none => .bankNone c
  | .f8 => .bankF8Nop c
  | .f6 => .bankF6Nop c
  | .f4 => .bankF4Nop c
  | .fe => .bankFeObserve c

namespace Machine

theorem decodeBank_of_not_qualifies {x : DecodeContext} {c : BusCycle} (hq : qualifies x.params x.scheme c = false) :
    decodeBank x c.word = x.scheme.defaultRow c := by
  cases hs : x.scheme <;> rw [hs] at hq
  case none => exact RoundTrip.bankNone c x (by simp [Instr.wf, hs])
  case f8 => exact RoundTrip.bankF8Nop c x (by simp [Instr.wf, nopRowHolds, hs, hq])
  case f6 => exact RoundTrip.bankF6Nop c x (by simp [Instr.wf, nopRowHolds, hs, hq])
  case f4 => exact RoundTrip.bankF4Nop c x (by simp [Instr.wf, nopRowHolds, hs, hq])
  case fe => exact RoundTrip.bankFeObserve c x (by simp [Instr.wf, hs])

theorem exec_defaultRow {sch : Scheme} (hs : sch ≠ .fe) (c : BusCycle) (s : State) :
    exec (sch.defaultRow c) s = .next s := by
  cases sch
  case fe => exact absurd rfl hs
  all_goals rfl

theorem bankAfter_of_not_qualifies {s : State} {c : BusCycle} (hs : s.scheme ≠ .fe)
    (hq : qualifies s.params s.scheme c = false) : bankAfter s c = s.bank := by
  simp [bankAfter_of_ne_fe hs, hq]

/-- Whether the gate lets the cycle through or not, `BANK` and `HIST` stay. -/
theorem step_of_not_qualifies {s : State} {c : BusCycle} (h : Presents s c) (hs : s.scheme ≠ .fe)
    (hq : qualifies s.params s.scheme c = false) : ∃ t, step s = .next t ∧ t.bank = s.bank ∧ t.hist = s.hist := by
  cases hg : gateOpen s c with
  | false => exact ⟨_, step_shut h hg, rfl, rfl⟩
  | true =>
    obtain ⟨-, hbank, hhist, -⟩ := openState_fields hg
    exact ⟨_, step_open h hg, hbank.trans (bankAfter_of_not_qualifies hs hq), hhist.trans (histAfter_of_ne_fe hs c)⟩

/-- An address outside the scheme's range of hotspots does not qualify, in either direction (R136). -/
theorem not_qualifies_of_outside (p : Params) {sch : Scheme} {base : Nat} {c : BusCycle}
    (hbase : hotspotBase sch = some base)
    (hout : c.address.toNat < base ∨ base + bankCount sch - 1 < c.address.toNat) : qualifies p sch c = false := by
  simp only [qualifies, hbase, Bool.and_eq_false_iff, decide_eq_false_iff_not, not_le]
  exact .inl hout

/-- In an iteration that the gate lets through, a cycle outside the range of hotspots selects the default row and
leaves `BANK`. -/
theorem defaultRow_of_outside {s : State} {c : BusCycle} {sch : Scheme} {base : Nat} (hopen : gateOpen s c = true)
    (hscheme : s.scheme = sch) (hfe : sch ≠ .fe) (hbase : hotspotBase sch = some base)
    (hout : c.address.toNat < base ∨ base + bankCount sch - 1 < c.address.toNat) :
    decodeBank (context s) c.word = sch.defaultRow c ∧ (openState c s).bank = s.bank := by
  subst hscheme
  have hq := not_qualifies_of_outside s.params hbase hout
  obtain ⟨-, hbank, -, -⟩ := openState_fields hopen
  exact ⟨decodeBank_of_not_qualifies hq, hbank.trans (bankAfter_of_not_qualifies hfe hq)⟩

end Machine

/-- Settles O26: each hotspot address is the cycle of its row, so `selectsBank_of_hotspotOf` applies row by row; the
neighbours lie outside the range. -/
theorem hotspotAccessSelectsItsBank : Obligations.HotspotAccessSelectsItsBank := by
  unfold Obligations.HotspotAccessSelectsItsBank
  intro s c hpresents hopen
  refine ⟨openState c s, step_open hpresents hopen, fun hs hd => ?f8, fun hs hd => ?f6, fun hs hd => ?f4⟩
  case f8 =>
    refine ⟨fun ha => ?_, fun ha => ?_, fun ha => defaultRow_of_outside hopen hs (by decide) rfl ?_⟩
    · exact selectsBank_of_hotspotOf hopen hs hd rfl (RoundTrip.bankF80 _ _) (BusCycle.eq_of_address ha)
    · exact selectsBank_of_hotspotOf hopen hs hd rfl (RoundTrip.bankF81 _ _) (BusCycle.eq_of_address ha)
    · rcases ha with ha | ha <;> rw [ha] <;> decide
  case f6 =>
    refine ⟨fun ha => ?_, fun ha => ?_, fun ha => ?_, fun ha => ?_,
      fun ha => defaultRow_of_outside hopen hs (by decide) rfl ?_⟩
    · exact selectsBank_of_hotspotOf hopen hs hd rfl (RoundTrip.bankF60 _ _) (BusCycle.eq_of_address ha)
    · exact selectsBank_of_hotspotOf hopen hs hd rfl (RoundTrip.bankF61 _ _) (BusCycle.eq_of_address ha)
    · exact selectsBank_of_hotspotOf hopen hs hd rfl (RoundTrip.bankF62 _ _) (BusCycle.eq_of_address ha)
    · exact selectsBank_of_hotspotOf hopen hs hd rfl (RoundTrip.bankF63 _ _) (BusCycle.eq_of_address ha)
    · rcases ha with ha | ha <;> rw [ha] <;> decide
  case f4 =>
    refine ⟨fun ha => ?_, fun ha => ?_, fun ha => ?_, fun ha => ?_, fun ha => ?_, fun ha => ?_, fun ha => ?_,
      fun ha => ?_, fun ha => defaultRow_of_outside hopen hs (by decide) rfl ?_⟩
    · exact selectsBank_of_hotspotOf hopen hs hd rfl (RoundTrip.bankF40 _ _) (BusCycle.eq_of_address ha)
    · exact selectsBank_of_hotspotOf hopen hs hd rfl (RoundTrip.bankF41 _ _) (BusCycle.eq_of_address ha)
    · exact selectsBank_of_hotspotOf hopen hs hd rfl (RoundTrip.bankF42 _ _) (BusCycle.eq_of_address ha)
    · exact selectsBank_of_hotspotOf hopen hs hd rfl (RoundTrip.bankF43 _ _) (BusCycle.eq_of_address ha)
    · exact selectsBank_of_hotspotOf hopen hs hd rfl (RoundTrip.bankF44 _ _) (BusCycle.eq_of_address ha)
    · exact selectsBank_of_hotspotOf hopen hs hd rfl (RoundTrip.bankF45 _ _) (BusCycle.eq_of_address ha)
    · exact selectsBank_of_hotspotOf hopen hs hd rfl (RoundTrip.bankF46 _ _) (BusCycle.eq_of_address ha)
    · exact selectsBank_of_hotspotOf hopen hs hd rfl (RoundTrip.bankF47 _ _) (BusCycle.eq_of_address ha)
    · rcases ha with ha | ha <;> rw [ha] <;> decide

/-! ## A cycle that does not qualify, and `FE` (R137, R135) -/

namespace Machine

theorem histAfter_of_fe {s : State} (hs : s.scheme = .fe) (c : BusCycle) :
    histAfter s c = ((c.address, c.isWrite) :: s.hist).take s.params.feDepth := by
  simp [histAfter, hs]

theorem bankAfter_of_fe {s : State} (hs : s.scheme = .fe) (c : BusCycle) :
    bankAfter s c = (Config.feSelect (histAfter s c)).getD s.bank := by
  simp [bankAfter, hs]

end Machine

/-- Settles O27: the default row of F8, F6 and F4 changes nothing, and under FE the bank is the selector's answer or
the one before; the worked example's addresses lie outside the range of F8. -/
theorem nonQualifyingCycleKeepsTheBank : Obligations.NonQualifyingCycleKeepsTheBank := by
  unfold Obligations.NonQualifyingCycleKeepsTheBank
  refine ⟨fun s c hpresents => ⟨fun hscheme hq => ?switched, fun hs hopen => ?fe⟩, fun p h => ?workedExample⟩
  case switched =>
    have hfe : s.scheme ≠ .fe := by rcases hscheme with hs | hs | hs <;> simp [hs]
    have hdecode : decodeBank (context s) c.word = s.scheme.defaultRow c := decodeBank_of_not_qualifies hq
    refine ⟨fun hs => ?_, fun hs => ?_, fun hs => ?_, fun u => ?_, step_of_not_qualifies hpresents hfe hq⟩
    · rw [hdecode, hs]; rfl
    · rw [hdecode, hs]; rfl
    · rw [hdecode, hs]; rfl
    · rw [hdecode, exec_defaultRow hfe]
  case fe =>
    obtain ⟨-, hbank, hhist, -⟩ := openState_fields hopen
    refine ⟨_, step_open hpresents hopen, hhist.trans (histAfter_of_fe hs c), fun hnone => ?_⟩
    rw [hhist] at hnone
    rw [hbank, bankAfter_of_fe hs, hnone, Option.getD_none]
  case workedExample =>
    refine ⟨not_qualifies_of_outside p rfl (.inl ?_), not_qualifies_of_outside p rfl (.inl ?_),
      not_qualifies_of_outside p rfl (.inr ?_)⟩
    · show (0x0000 : Address).toNat < 0x1FF8
      decide
    · show (0x1FF7 : Address).toNat < 0x1FF8
      decide
    · show 0x1FF8 + bankCount .f8 - 1 < (0xFFF8 : Address).toNat
      decide

end Sys2Proof

/-! PROOFS. The sampler and driver family (spec/42_sampler_driver.md): the step is the reference iteration (R160), when
a byte is driven and when nothing is (R164 to R166, R168), and the release of the lines (R167). -/

namespace Sys2Proof

open Sys2Proof.Machine

namespace Machine

/-! ## The step is the reference iteration (R160) -/

theorem driveNothing_of_hiZ {s : State} (h : s.out = .hiZ) : driveNothing s = s := by
  rw [driveNothing, ← h]

theorem raise_of_hiZ {s : State} (h : s.out = .hiZ) (k : FaultKind) : raise k s = { s with fault := k } := by
  rw [raise, ← h]

/-- Steps 4 and 5 of R160 leave `out` alone where nothing is driven, which is right once `out` is `HiZ`. -/
theorem dataStage_eq_referenceData {s : State} (h : s.out = .hiZ) (c : BusCycle) :
    dataStage c s = referenceData c s := by
  unfold dataStage readInWindow referenceData
  cases c.isWrite with
  | true => exact driveNothing_of_hiZ h
  | false =>
    cases inWindow s.params c.address with
    | false => exact driveNothing_of_hiZ h
    | true =>
      show serveRead c.address s = _
      cases hb : byteAt s s.bank (lookupOffset s.scheme s.len c.address) with
      | ok b => exact serveRead_ok hb
      | error k => rw [serveRead_error hb, byteAt_error hb]; exact raise_of_hiZ h _

theorem gateOpen_eq_false_iff (s : State) (c : BusCycle) :
    gateOpen s c = false ↔ s.fault ≠ .noFault ∨ (s.phase = .idle ∧ c.halted = true) := by
  simp only [gateOpen, Bool.and_eq_false_iff, beq_eq_false_iff_ne, Bool.not_eq_false', Bool.and_eq_true, beq_iff_eq]

theorem referenceIteration_shut {s : State} {c : BusCycle} (h : gateOpen s c = false) :
    referenceIteration c s = release s := by
  unfold referenceIteration
  rcases (gateOpen_eq_false_iff s c).mp h with hf | hheld
  · rw [if_pos hf]; rfl
  · rw [if_pos hheld, ite_self]; rfl

theorem referenceIteration_open {s : State} {c : BusCycle} (h : gateOpen s c = true) :
    referenceIteration c s = release (referenceData c (referenceBank c (setPhase (phaseAfter s.phase) s))) := by
  have hshut : ¬ (s.fault ≠ .noFault ∨ (s.phase = .idle ∧ c.halted = true)) := by
    rw [← gateOpen_eq_false_iff, h]; decide
  obtain ⟨hf, hheld⟩ := not_or.mp hshut
  unfold referenceIteration
  rw [if_neg hf, if_neg hheld]
  cases hp : s.phase with
  | idle => rfl
  | armed => rfl
  | running =>
    have hsame : setPhase (phaseAfter .running) s = s := by rw [phaseAfter, ← hp]; rfl
    rw [hsame]
    rfl

end Machine

/-- Settles O9: the gate shuts the cycle out in both, or lets it through in both; then stage BANK's effect is
`referenceBank`, and stage DATA's is `referenceData` on a state whose output is `HiZ`. -/
theorem stepIsTheReferenceIteration : Obligations.StepIsTheReferenceIteration := by
  unfold Obligations.StepIsTheReferenceIteration
  intro s c hpresents
  show step s = .next (referenceIteration c (beginIteration s))
  cases hg : gateOpen s c with
  | false =>
    have hg' : gateOpen (beginIteration s) c = false := hg
    rw [step_shut hpresents hg, referenceIteration_shut hg']
    rfl
  | true =>
    have hg' : gateOpen (beginIteration s) c = true := hg
    rw [step_open hpresents hg, referenceIteration_open hg', openState, dataStage_eq_referenceData rfl]
    rfl

namespace Machine

/-! ## What the driver leaves after any cycle (R167) -/

theorem openState_driver (c : BusCycle) (s : State) :
    (openState c s).oe = false ∧ (∀ b, (openState c s).out = .drive b → (openState c s).dout = b) ∧
    ((openState c s).out = .hiZ → (openState c s).dout = s.dout) := by
  rcases openState_cases c s with ⟨-, e⟩ | ⟨-, b, -, e⟩ | ⟨-, -, e⟩ <;> rw [e] <;> simp

theorem outputOf_of_gate_shut {s : State} {c : BusCycle} (h : gateOpen s c = false) : outputOf s c = .hiZ := by
  simp [outputOf, h]

/-- The lines are released, the output is the one R168 gives, and `DOUT` is the byte driven or the one before. -/
theorem step_driver {s : State} {c : BusCycle} (h : Presents s c) :
    ∃ t, step s = .next t ∧ t.oe = false ∧ t.out = outputOf s c ∧
      (∀ b, t.out = .drive b → t.dout = b) ∧ (t.out = .hiZ → t.dout = s.dout) := by
  cases hg : gateOpen s c with
  | false =>
    exact ⟨_, step_shut h hg, rfl, (outputOf_of_gate_shut hg).symm, fun _ hb => Output.noConfusion hb, fun _ => rfl⟩
  | true =>
    obtain ⟨-, -, -, hout⟩ := openState_fields hg
    obtain ⟨hoe, hdrive, hhiZ⟩ := openState_driver c s
    exact ⟨_, step_open h hg, hoe, hout, hdrive, hhiZ⟩

theorem decodeIteration_ends_with_rel (x : DecodeContext) (c : BusCycle) :
    ∃ is, decodeIteration x c.word = is ++ [.rel c] := by
  simp only [decodeIteration, decodeRel_word]
  split
  · exact ⟨[_, _, _], rfl⟩
  · exact ⟨[_], rfl⟩

end Machine

/-- Settles O35: the iteration's list of operations ends with `REL`, and `step_driver` says what the driver leaves. -/
theorem linesAreReleasedAfterEveryCycle : Obligations.LinesAreReleasedAfterEveryCycle := by
  unfold Obligations.LinesAreReleasedAfterEveryCycle
  intro s c hpresents
  obtain ⟨t, hstep, hoe, -, hdrive, hhiZ⟩ := step_driver hpresents
  have hlines : dataLines t = none := by simp [dataLines, hoe]
  exact ⟨decodeIteration_ends_with_rel (context s) c, fun _ => rfl, t, hstep, hoe, hlines, hdrive, hhiZ⟩

namespace Machine

/-! ## When a byte is driven (R168) -/

theorem readInWindow_iff (s : State) (c : BusCycle) :
    readInWindow s c = true ↔ c.isWrite = false ∧ inWindow s.params c.address = true := by
  rw [readInWindow, Bool.and_eq_true, Bool.not_eq_true']

theorem outputOf_eq_drive_iff (s : State) (c : BusCycle) (b : Byte) :
    outputOf s c = .drive b ↔ gateOpen s c = true ∧ readInWindow s c = true ∧ lookupAfter s c = .ok b := by
  unfold outputOf
  cases gateOpen s c with
  | false => simp
  | true =>
    cases readInWindow s c with
    | false => simp
    | true => cases lookupAfter s c <;> simp

/-- The gate lets a cycle through exactly when there is no fault and it selects one of the three operations after which
the iteration goes on (R84). -/
theorem gateOpen_iff_decodeGate (s : State) (c : BusCycle) :
    gateOpen s c = true ↔ s.fault = .noFault ∧
      (decodeGate (context s) c.word = .gateArm c.isWrite c.address ∨
        decodeGate (context s) c.word = .gateAdvance c ∨ decodeGate (context s) c.word = .gatePass c) := by
  constructor
  · intro hopen
    obtain ⟨⟨g, hg, hdecode, -⟩, -⟩ := runCycle_open hopen
    rw [hdecode]
    exact ⟨gateOpen_noFault hopen, hg⟩
  · rintro ⟨hfault, hselected⟩
    rcases gate_cases s c with hf | ⟨-, hphase, hhalted⟩ | hopen
    · exact absurd hfault hf
    · have hhold : decodeGate (context s) c.word = .gateHold c.isWrite c.address := by
        simp [decodeGate_word, context, hfault, hphase, hhalted]
      rw [hhold] at hselected
      simp at hselected
    · exact hopen

end Machine

/-- Settles O36: the output is `outputOf`, which is a byte exactly under the five conditions. -/
theorem driveHappensOnlyInAServedRead : Obligations.DriveHappensOnlyInAServedRead := by
  unfold Obligations.DriveHappensOnlyInAServedRead
  intro s t c hpresents hstep
  obtain ⟨u, hu, -, hout, -, -⟩ := step_driver hpresents
  obtain rfl := step_unique hu hstep
  refine ⟨fun b => ?drive, fun hnone => ?undriven⟩
  case drive =>
    rw [hout, outputOf_eq_drive_iff, gateOpen_iff_decodeGate, readInWindow_iff, and_assoc, and_assoc]
    rfl
  case undriven =>
    cases ho : u.out with
    | hiZ => rfl
    | drive b => exact absurd ho (hnone b)

namespace Machine

/-! ## Writes and reads outside the window (R165, R166) -/

theorem readInWindow_eq_false_iff (s : State) (c : BusCycle) :
    readInWindow s c = false ↔ c.isWrite = true ∨ inWindow s.params c.address = false := by
  rw [readInWindow, Bool.and_eq_false_iff, Bool.not_eq_false']

theorem outputOf_of_not_readInWindow {s : State} {c : BusCycle} (h : readInWindow s c = false) :
    outputOf s c = .hiZ := by
  simp [outputOf, h]

theorem decodeIteration_open {s : State} {c : BusCycle} (h : gateOpen s c = true) :
    decodeIteration (context s) c.word =
      [decodeGate (context s) c.word, decodeBank (context s) c.word, decodeData (context s) c.word, .rel c] := by
  obtain ⟨⟨g, -, hg, hlist⟩, -⟩ := runCycle_open h
  rw [hlist, hg]

/-- Without a served read the iteration writes at most what stages GATE, BANK and REL own. -/
theorem openState_of_not_readInWindow {s : State} {c : BusCycle} (h : readInWindow s c = false) :
    openState c s = { s with
      phase := phaseAfter s.phase, bank := bankAfter s c, hist := histAfter s c, oe := false, out := .hiZ
      input := s.input.tail, events := s.events + 1 } := by
  rcases openState_cases c s with ⟨-, e⟩ | ⟨hr, -⟩ | ⟨hr, -⟩
  · exact e
  · simp [h] at hr
  · simp [h] at hr

theorem step_fault_of_not_readInWindow {s t : State} {c : BusCycle} (hpresents : Presents s c)
    (hread : readInWindow s c = false) (hstep : step s = .next t) : t.fault = s.fault := by
  cases hg : gateOpen s c with
  | false =>
    obtain rfl := step_unique (step_shut hpresents hg) hstep
    rfl
  | true =>
    obtain rfl := step_unique (step_open hpresents hg) hstep
    rw [openState_of_not_readInWindow hread]

/-- A cycle that serves no read, switches no bank and advances no phase leaves the block as it was. -/
theorem sameBlock_of_unserved_unqualified {s t : State} {c : BusCycle} (hpresents : Presents s c)
    (hread : readInWindow s c = false) (hphase : s.phase = .running) (hoe : s.oe = false) (hfe : s.scheme ≠ .fe)
    (hq : qualifies s.params s.scheme c = false) (hstep : step s = .next t) : SameBlock s t := by
  cases hg : gateOpen s c with
  | false =>
    obtain rfl := step_unique (step_shut hpresents hg) hstep
    rw [SameBlock, shutState_eq, ← hoe]
  | true =>
    obtain rfl := step_unique (step_open hpresents hg) hstep
    rw [SameBlock, openState_of_not_readInWindow hread, bankAfter_of_not_qualifies hfe hq, histAfter_of_ne_fe hfe,
      hphase, phaseAfter, ← hphase, ← hoe]

end Machine

/-- Settles O34: `readInWindow` is false, so the output is `HiZ` and stage DATA raises nothing; the addresses of R166
lie outside the default window. -/
theorem writesAndOutsideReadsDriveNothing : Obligations.WritesAndOutsideReadsDriveNothing := by
  unfold Obligations.WritesAndOutsideReadsDriveNothing
  refine ⟨fun s c hpresents hundriven => ?undriven, rfl, rfl, rfl, fun h => ?workedExample⟩
  case undriven =>
    have hread : readInWindow s c = false := (readInWindow_eq_false_iff s c).mpr hundriven
    obtain ⟨t, hstep, hoe, hout, -, hdout⟩ := step_driver hpresents
    rw [outputOf_of_not_readInWindow hread] at hout
    have hfault := step_fault_of_not_readInWindow hpresents hread hstep
    refine ⟨fun hopen hwrite => ?write, fun hopen hwrite => ?outside, fun _ => rfl, fun _ => rfl,
      t, hstep, hout, hoe, hdout hout, hfault, fun hopen => ?bank, fun hphase hoe hfe hq => ?unchanged⟩
    case write => rw [decodeIteration_open hopen, decodeData_word, if_pos hwrite]
    case outside =>
      have hwindow : inWindow (context s).params c.address = false := hundriven.resolve_left (by simp [hwrite])
      simp [decodeIteration_open hopen, decodeData_word, hwrite, hwindow]
    case bank =>
      obtain ⟨-, hbank, hhist, -⟩ := openState_fields hopen
      obtain rfl := step_unique (step_open hpresents hopen) hstep
      exact ⟨hbank, hhist⟩
    case unchanged => exact sameBlock_of_unserved_unqualified hpresents hread hphase hoe hfe hq hstep
  case workedExample =>
    refine not_qualifies_of_outside _ rfl (.inr ?_)
    show 0x1FF8 + bankCount .f8 - 1 < (0x3FF8 : Address).toNat
    decide

namespace Machine

/-! ## The served read (R164) -/

theorem byteAt_of_valid {s : State} {bank offset : Nat}
    (h : offset < bankSize s.scheme s.len ∧ bank < bankCount s.scheme ∧ imageIndex s bank offset < s.len) :
    byteAt s bank offset = .ok (s.image.read (imageIndex s bank offset)) := by
  rcases byteAt_cases s bank offset with ⟨-, -, -, hok⟩ | ⟨hout, -⟩
  · exact hok
  · omega

theorem byteAt_of_invalid {s : State} {bank offset : Nat}
    (h : ¬ (offset < bankSize s.scheme s.len ∧ bank < bankCount s.scheme ∧ imageIndex s bank offset < s.len)) :
    byteAt s bank offset = .error .outOfRange := by
  rcases byteAt_cases s bank offset with ⟨hoffset, hbank, hindex, -⟩ | ⟨-, herror⟩
  · exact absurd ⟨hoffset, hbank, hindex⟩ h
  · exact herror

theorem step_serves_of_lookup_ok {s : State} {c : BusCycle} {b : Byte} (hpresents : Presents s c)
    (hopen : gateOpen s c = true) (hread : readInWindow s c = true) (hlookup : lookupAfter s c = .ok b) :
    ∃ t, step s = .next t ∧ t.out = .drive b ∧ t.dout = b ∧ t.fault = .noFault ∧
      t.bank = bankAfter s c ∧ t.hist = histAfter s c := by
  refine ⟨_, step_open hpresents hopen, ?_⟩
  have hfault := gateOpen_noFault hopen
  rcases openState_cases c s with ⟨hr, -⟩ | ⟨-, b', hb', e⟩ | ⟨-, herror, -⟩
  · simp [hread] at hr
  · obtain rfl : b' = b := by simpa [hlookup] using hb'.symm
    rw [e]
    exact ⟨rfl, rfl, hfault, rfl, rfl⟩
  · simp [hlookup] at herror

theorem step_raises_of_lookup_error {s : State} {c : BusCycle} (hpresents : Presents s c)
    (hopen : gateOpen s c = true) (hread : readInWindow s c = true)
    (hlookup : lookupAfter s c = .error .outOfRange) :
    ∃ t, step s = .next t ∧ t.out = .hiZ ∧ t.dout = s.dout ∧ t.fault = .outOfRange ∧
      t.bank = bankAfter s c ∧ t.hist = histAfter s c := by
  refine ⟨_, step_open hpresents hopen, ?_⟩
  rcases openState_cases c s with ⟨hr, -⟩ | ⟨-, b, hok, -⟩ | ⟨-, -, e⟩
  · simp [hread] at hr
  · simp [hlookup] at hok
  · rw [e]
    exact ⟨rfl, rfl, rfl, rfl, rfl⟩

/-! ### The worked example of R164: an F8 image of 8192 bytes under the default parameters -/

/-- A block that serves reads from an F8 image of the declared length. -/
structure ServesF8 (s : State) : Prop where
  loaded : s.loaded = true
  fault  : s.fault = .noFault
  scheme : s.scheme = .f8
  len    : s.len = 8192
  params : s.params = Config.params

theorem lookupOffset_f8_lt (a : Address) : lookupOffset .f8 8192 a < 4096 := by
  have hmask : (a &&& offsetMask .f8 8192).toNat ≤ 4095 := by
    rw [BitVec.toNat_and]
    exact Nat.and_le_right
  exact Nat.lt_succ_of_le hmask

theorem ServesF8.lookupAfter_eq {s : State} {c : BusCycle} (h : ServesF8 s) (hlt : bankAfter s c < 2) :
    lookupAfter s c = .ok (s.image.read (bankAfter s c * 4096 + lookupOffset .f8 8192 c.address)) := by
  have hoffset := lookupOffset_f8_lt c.address
  rw [lookupAfter, byteAt_of_valid]
  · rw [imageIndex, h.scheme, h.len]; rfl
  · rw [imageIndex, h.scheme, h.len]
    simp only [bankSize, bankCount]
    omega

/-- A read of the default window is served from the bank that stage BANK leaves, and the block serves on. -/
theorem ServesF8.step_read {s : State} {c : BusCycle} {es : List Event} (h : ServesF8 s)
    (hinput : s.input = .cycle c :: es) (hread : readInWindow s c = true) (hhalted : c.halted = false)
    (hlt : bankAfter s c < 2) :
    ∃ t, step s = .next t ∧ ServesF8 t ∧ t.input = es ∧ t.image = s.image ∧ t.bank = bankAfter s c ∧
      t.out = .drive (s.image.read (bankAfter s c * 4096 + lookupOffset .f8 8192 c.address)) := by
  have hpresents := presents_of_input h.loaded hinput
  have hopen : gateOpen s c = true := by simp [gateOpen, h.fault, hhalted]
  obtain ⟨t, hstep, htail, hconf⟩ := step_presents_next hpresents
  obtain ⟨u, hu, hout, -, hnofault, hbank, -⟩ :=
    step_serves_of_lookup_ok hpresents hopen hread (h.lookupAfter_eq hlt)
  obtain rfl := step_unique hstep hu
  have hserves : ServesF8 t := ⟨hconf.loaded.trans h.loaded, hnofault, hconf.scheme.trans h.scheme,
    hconf.len.trans h.len, hconf.params.trans h.params⟩
  exact ⟨t, hstep, hserves, by rw [htail, hinput, List.tail_cons], hconf.image, hbank, hout⟩

theorem ServesF8.readInWindow_eq {s : State} (h : ServesF8 s) (c : BusCycle) :
    readInWindow s c = (!c.isWrite && inWindow Config.params c.address) := by
  rw [readInWindow, h.params]

theorem ServesF8.bankAfter_hotspot1 {s : State} (h : ServesF8 s) :
    bankAfter s { address := 0x1FF9, isWrite := false, halted := false } = 1 := by
  rw [bankAfter_of_ne_fe (by simp [h.scheme]), h.scheme, h.params]
  rfl

theorem ServesF8.bankAfter_zero {s : State} (h : ServesF8 s) :
    bankAfter s { address := 0x0000, isWrite := false, halted := false } = s.bank := by
  rw [bankAfter_of_ne_fe (by simp [h.scheme]), h.scheme, h.params]
  rfl

end Machine

/-- Settles O33: `byte_at` answers by the validity of the location, and the step drives or raises by its answer; the row
of the default window has mask 0x1E000 and match 0; the worked example serves two reads, of which the first selects
bank 1. -/
theorem servedReadDrivesTheImageByte : Obligations.ServedReadDrivesTheImageByte := by
  unfold Obligations.ServedReadDrivesTheImageByte
  refine ⟨fun s c hpresents hopen hwrite hwindow => ?served, fun x w hx => ?defaultWindow, by decide,
    fun s hloaded hfault hscheme hlen hparams hinput => ?workedExample⟩
  case served =>
    have hread := (readInWindow_iff s c).mpr ⟨hwrite, hwindow⟩
    refine ⟨?_, fun hvalid => ?_, fun hinvalid => ?_⟩
    · have hcontext : inWindow (context s).params c.address = true := hwindow
      simp [decodeData_word, hwrite, hcontext]
    · exact step_serves_of_lookup_ok hpresents hopen hread (byteAt_of_valid hvalid)
    · exact step_raises_of_lookup_error hpresents hopen hread (byteAt_of_invalid hinvalid)
  case defaultWindow =>
    rw [decodeData_eq_dataRead_iff, hx]
    exact (and_dataReadMask_eq_windowMatch_iff Config.params w).symm
  case workedExample =>
    have hs : ServesF8 s := ⟨hloaded, hfault, hscheme, hlen, hparams⟩
    have hbank := hs.bankAfter_hotspot1
    obtain ⟨t, hstep, ht, htinput, htimage, htbank, -⟩ :=
      hs.step_read hinput (hs.readInWindow_eq _) rfl (hbank ▸ by decide)
    have hbank' := ht.bankAfter_zero.trans (htbank.trans hbank)
    obtain ⟨u, hstep', -, -, -, -, hout⟩ :=
      ht.step_read htinput (ht.readInWindow_eq _) rfl (hbank' ▸ by decide)
    refine ⟨u, (runSteps_succ hstep 1).trans (runSteps_succ hstep' 0), ?_⟩
    rw [hout, htimage, hbank']
    rfl

end Sys2Proof

/-! PROOFS. The halt synchronizer family (spec/43_halt_synchronizer.md): the release arms the block and serves its cycle
(R182), armed and running blocks serve every cycle (R183, R184), and the halt line has no effect afterwards (R185). -/

namespace Sys2Proof

open Sys2Proof.Machine

namespace Machine

/-! ## A cycle that the gate lets through is served in full (R182 to R184) -/

theorem gateOpen_of_released {s : State} {c : BusCycle} (hfault : s.fault = .noFault) (hhalted : c.halted = false) :
    gateOpen s c = true := by
  simp [gateOpen, hfault, hhalted]

/-- Once the block is not `Idle` the gate does not look at the halt sample. -/
theorem gateOpen_of_not_idle {s : State} (hphase : s.phase ≠ .idle) (c : BusCycle) :
    gateOpen s c = (s.fault == .noFault) := by
  simp [gateOpen, hphase]

/-- The phase advances, and bank, history and output are those of a served cycle. -/
theorem step_serves {s : State} {c : BusCycle} (hpresents : Presents s c) (hopen : gateOpen s c = true)
    {p : Phase} (hphase : phaseAfter s.phase = p) :
    ∃ t, step s = .next t ∧ t.phase = p ∧ t.bank = bankAfter s c ∧ t.hist = histAfter s c ∧ t.out = outputOf s c :=
  ⟨_, step_open hpresents hopen, hphase ▸ openState_fields hopen⟩

/-! ## The worked example of R182 -/

/-- Address 0x0000 is below the hotspots of F8. -/
theorem bankAfter_f8_address_zero {s : State} {c : BusCycle} (hscheme : s.scheme = .f8)
    (haddress : c.address = 0x0000) : bankAfter s c = s.bank := by
  refine bankAfter_of_not_qualifies (by simp [hscheme]) ?_
  rw [hscheme]
  refine not_qualifies_of_outside s.params rfl (.inl ?_)
  rw [haddress]
  decide

/-- In an F8 image of the declared length the first byte of a bank in range is looked up at `bank * 4096`. -/
theorem lookupAfter_f8_address_zero {s : State} {c : BusCycle} (hscheme : s.scheme = .f8) (hlen : s.len = 8192)
    (haddress : c.address = 0x0000) (hbank : s.bank < 2) : lookupAfter s c = .ok (s.image.read (s.bank * 4096)) := by
  have hoffset : lookupOffset .f8 8192 0x0000 = 0 := rfl
  have hindex : imageIndex s s.bank 0 = s.bank * 4096 := by rw [imageIndex, hscheme, bankSize, Nat.add_zero]
  rw [lookupAfter, bankAfter_f8_address_zero hscheme haddress, hscheme, hlen, haddress, hoffset,
    byteAt_of_valid, hindex]
  rw [hindex, hscheme, hlen]
  simp only [bankSize, bankCount]
  omega

end Machine

/-- Settles O22: the released cycle passes the gate as `GATE_ARM` and is served; until then the invariant has the bank
at its reset value; in the worked example stage BANK leaves that bank, whose first byte is driven. -/
theorem releaseArmsAndServesItsCycle : Obligations.ReleaseArmsAndServesItsCycle := by
  unfold Obligations.ReleaseArmsAndServesItsCycle
  refine ⟨fun s c hpresents hfault hphase hhalted => ?released,
    fun s hpresents hfault hphase hscheme hlen hbank hwindow => ?workedExample⟩
  case released =>
    have hopen := gateOpen_of_released hfault hhalted
    have hgate : decodeGate (context s) c.word = .gateArm c.isWrite c.address := by
      simp [decodeGate_word, context, hfault, hphase, hhalted]
    have hconfigured : configured s = true := by
      simp [configured, hpresents.1, hfault]
    exact ⟨hgate ▸ decodeIteration_open hopen, fun _ => rfl,
      fun hinv => (hinv.idleIsReset hconfigured hphase).1,
      step_serves hpresents hopen (by rw [hphase, phaseAfter])⟩
  case workedExample =>
    have hopen := gateOpen_of_released (c := { address := 0x0000, isWrite := false, halted := false }) hfault rfl
    have hread := (readInWindow_iff s { address := 0x0000, isWrite := false, halted := false }).mpr ⟨rfl, hwindow⟩
    have hlt : s.bank < 2 := hbank ▸ resetBank_lt s.params .f8
    obtain ⟨t, hstep, hout, -⟩ := step_serves_of_lookup_ok hpresents hopen hread
      (lookupAfter_f8_address_zero hscheme hlen rfl hlt)
    obtain ⟨u, hstep', harmed, -⟩ := step_serves hpresents hopen (by rw [hphase, phaseAfter])
    obtain rfl := step_unique hstep hstep'
    exact ⟨t, hstep, harmed, hbank ▸ hout⟩

namespace Machine

/-! ## The halt sample after release (R183 to R185) -/

theorem outputOf_halted {s : State} (hphase : s.phase ≠ .idle) (c : BusCycle) (h : Bool) :
    outputOf s { c with halted := h } = outputOf s c := by
  simp only [outputOf, gateOpen_of_not_idle hphase]
  rfl

end Machine

/-- Settles O23: with no fault the gate lets every cycle of a block that is not `Idle` through, whatever its halt
sample, and the cycle is served. -/
theorem armedAndRunningBlocksServeEveryCycle : Obligations.ArmedAndRunningBlocksServeEveryCycle := by
  unfold Obligations.ArmedAndRunningBlocksServeEveryCycle
  intro s c hpresents hfault
  have hopen (hphase : s.phase ≠ .idle) : gateOpen s c = true := by
    rw [gateOpen_of_not_idle hphase, hfault]
    rfl
  refine ⟨fun hphase => ?armed, fun hphase => ?running, fun hphase => outputOf_halted hphase c _⟩
  case armed =>
    have hopen := hopen (by simp [hphase])
    have hgate : decodeGate (context s) c.word = .gateAdvance c := by
      simp [decodeGate_word, context, hfault, hphase]
    exact ⟨hgate ▸ decodeIteration_open hopen, fun _ => rfl,
      step_serves hpresents hopen (by rw [hphase, phaseAfter])⟩
  case running =>
    have hopen := hopen (by simp [hphase])
    have hgate : decodeGate (context s) c.word = .gatePass c := by
      simp [decodeGate_word, context, hfault, hphase]
    exact ⟨hgate ▸ decodeIteration_open hopen, fun _ => rfl,
      step_serves hpresents hopen (by rw [hphase, phaseAfter])⟩

namespace Machine

theorem serveRead_phase (a : Address) (s : State) : (serveRead a s).phase = s.phase := by
  cases hb : byteAt s s.bank (lookupOffset s.scheme s.len a) with
  | ok b => rw [serveRead_ok hb, driveByte_phase]
  | error k => rw [serveRead_error hb, raise_phase]

/-- `GATE_ARM` and `GATE_ADVANCE` are the only operations that write `PHASE`, and neither writes `Idle`. -/
theorem exec_phase_idle {i : Instr} {s t : State} (h : exec i s = .next t) (hidle : t.phase = .idle) :
    s.phase = .idle := by
  cases i <;> cases h
  case gateArm _ _ => exact Phase.noConfusion hidle
  case gateAdvance _ => exact Phase.noConfusion hidle
  case bankFeObserve c => rwa [observeCycle_phase] at hidle
  case dataRead _ address => rwa [serveRead_phase] at hidle
  all_goals exact hidle

/-- Stage DATA neither reads nor writes the events still to come. -/
theorem dataStage_input (c : BusCycle) (s : State) (es : List Event) :
    dataStage c { s with input := es } = { dataStage c s with input := es } := by
  have hlookup (bank offset : Nat) : byteAt { s with input := es } bank offset = byteAt s bank offset :=
    byteAt_congr rfl rfl rfl bank offset
  have hwindow : readInWindow { s with input := es } c = readInWindow s c := rfl
  rcases dataStage_cases c s with ⟨hr, e⟩ | ⟨hr, b, hb, e⟩ | ⟨hr, hb, e⟩ <;> rw [e, dataStage, hwindow, hr]
  · rfl
  · exact serveRead_ok ((hlookup _ _).trans hb)
  · exact serveRead_error ((hlookup _ _).trans hb)

/-- The iteration of a cycle that the gate lets through does not read the halt sample, and of the events to come it
takes its own away. -/
theorem openState_halted_input (c : BusCycle) (h : Bool) (s : State) (e : Event) (es : List Event) :
    openState { c with halted := h } { s with input := e :: es } = { openState c s with input := es } :=
  congrArg release (dataStage_input c (referenceBank c (setPhase (phaseAfter s.phase) (beginIteration s))) es)

theorem phaseAfter_ne_idle (p : Phase) : phaseAfter p ≠ .idle := by
  cases p <;> decide

/-- The key step of R185: a block that is not `Idle` answers a cycle by one state, whatever the halt sample and the
events that follow, and is not `Idle` after it. -/
theorem step_of_not_idle {s : State} (hloaded : s.loaded = true) (hphase : s.phase ≠ .idle) (c : BusCycle) :
    ∃ u : State, u.loaded = true ∧ u.phase ≠ .idle ∧ ∀ (h : Bool) (es : List Event),
      step { s with input := .cycle { c with halted := h } :: es } = .next { u with input := es } := by
  have hpresents (h : Bool) (es : List Event) :
      Presents { s with input := .cycle { c with halted := h } :: es } { c with halted := h } := ⟨hloaded, rfl⟩
  have hgate (h : Bool) (es : List Event) :
      gateOpen { s with input := .cycle { c with halted := h } :: es } { c with halted := h } = gateOpen s c :=
    (gateOpen_of_not_idle (s := { s with input := _ }) hphase _).trans (gateOpen_of_not_idle hphase c).symm
  cases hopen : gateOpen s c with
  | false =>
    exact ⟨shutState s, hloaded, hphase, fun h es => step_shut (hpresents h es) ((hgate h es).trans hopen)⟩
  | true =>
    obtain ⟨hadvanced, -, -, -⟩ := openState_fields hopen
    have hkept : (openState c s).loaded = true := by
      rcases openState_cases c s with ⟨-, e⟩ | ⟨-, b, -, e⟩ | ⟨-, -, e⟩ <;> rw [e] <;> exact hloaded
    refine ⟨openState c s, hkept, hadvanced ▸ phaseAfter_ne_idle s.phase, fun h es => ?_⟩
    rw [step_open (hpresents h es) ((hgate h es).trans hopen), openState_halted_input]

/-- By induction on the cycles: two runs on cycles that agree but for their halt samples meet in one state. -/
theorem runSteps_ignore_halted {cs ds : List BusCycle} {s : State} (hloaded : s.loaded = true)
    (hphase : s.phase ≠ .idle)
    (hagree : cs.map (fun c => (c.address, c.isWrite)) = ds.map (fun c => (c.address, c.isWrite))) :
    ∃ t, runSteps cs.length { s with input := cs.map Event.cycle } = .next t ∧
      runSteps ds.length { s with input := ds.map Event.cycle } = .next t ∧ t.phase ≠ .idle := by
  induction cs generalizing ds s with
  | nil =>
    obtain rfl : ds = [] := by simpa using hagree.symm
    exact ⟨_, rfl, rfl, hphase⟩
  | cons c cs ih =>
    cases ds with
    | nil => simp at hagree
    | cons d ds =>
      simp only [List.map_cons, List.cons.injEq, Prod.mk.injEq] at hagree
      obtain ⟨⟨haddress, hwrite⟩, hrest⟩ := hagree
      have hd : d = { c with halted := d.halted } := by rw [haddress, hwrite]
      obtain ⟨u, hu, hnotIdle, hstep⟩ := step_of_not_idle hloaded hphase c
      obtain ⟨t, hcs, hds, ht⟩ := ih hu hnotIdle hrest
      refine ⟨t, (runSteps_succ (hstep c.halted _) cs.length).trans hcs, ?_, ht⟩
      rw [hd]
      exact (runSteps_succ (hstep d.halted _) ds.length).trans hds

end Machine

/-- Settles O24: no operation writes `Idle`, and by `step_of_not_idle` two runs that differ in their halt samples alone
answer each cycle by the same state. -/
theorem haltLineHasNoEffectOnceArmed : Obligations.HaltLineHasNoEffectOnceArmed := by
  unfold Obligations.HaltLineHasNoEffectOnceArmed
  exact ⟨fun _ _ _ => exec_phase_idle, fun _ _ _ => runSteps_ignore_halted⟩

end Sys2Proof

/-! PROOFS. The exceptions family (spec/60_exceptions.md): a block with a fault does nothing (R207), and the load refuses
what it cannot serve (R201, R202). -/

namespace Sys2Proof

open Sys2Proof.Machine

namespace Machine

/-! ## A block with a fault (R207) -/

theorem step_stopped {s : State} {c : BusCycle} (hpresents : Presents s c) (hfault : s.fault ≠ .noFault) :
    step s = .next (shutState s) :=
  step_shut hpresents ((gateOpen_eq_false_iff s c).mpr (.inl hfault))

end Machine

/-- Settles O20: stage GATE selects `GATE_STOPPED`, after which only `REL` runs, and `shutState` is the state they
leave. -/
theorem stoppedBlockDoesNothing : Obligations.StoppedBlockDoesNothing := by
  unfold Obligations.StoppedBlockDoesNothing
  intro s c hpresents hfault
  exact ⟨(runCycle_stopped hfault).1, _, step_stopped hpresents hfault, rfl, rfl, shutState_eq s⟩

namespace Machine

/-! ## What the load refuses (R201, R202) -/

/-- Of the supported lengths only 32768 decides no scheme (R113). -/
theorem inferScheme_eq_none_iff {n : Nat} (h : supportedSize n = true) : inferScheme n = none ↔ n = 32768 := by
  rw [supportedSize_iff] at h
  rcases h with rfl | rfl | rfl | rfl | rfl <;> decide

/-- The load refuses an unsupported length, or a tagless 32768, or establishes a configuration. -/
theorem bootLoad_cases (s : State) :
    (supportedSize s.persisted.bytes.length = false ∧
      bootLoad s = raise .invalidImageSize { s with loaded := true }) ∨
    (supportedSize s.persisted.bytes.length = true ∧ (s.persisted.bytes.length = 32768 ∧ s.persisted.tag = none) ∧
      bootLoad s = raise .ambiguousScheme { s with loaded := true }) ∨
    (supportedSize s.persisted.bytes.length = true ∧ ¬ (s.persisted.bytes.length = 32768 ∧ s.persisted.tag = none) ∧
      ∃ l, bootLoad s = establish l { s with loaded := true }) := by
  rcases load_cases s.persisted with ⟨hsize, hl⟩ | ⟨hsize, htag, hinfer, hl⟩ | ⟨hsize, sch, hsch, hl⟩
  · exact .inl ⟨hsize, bootLoad_error hl⟩
  · exact .inr (.inl ⟨hsize, ⟨(inferScheme_eq_none_iff hsize).mp hinfer, htag⟩, bootLoad_error hl⟩)
  · refine .inr (.inr ⟨hsize, fun ⟨hlen, htag⟩ => ?_, _, bootLoad_ok hl⟩)
    rw [(inferScheme_eq_none_iff hsize).mpr hlen, htag] at hsch
    simp at hsch

/-- Once loaded, a step keeps `FAULT`, raises `OutOfRange` in a block without a fault, or is a power cycle. -/
theorem step_fault_cases {s t : State} (hloaded : s.loaded = true) (hstep : step s = .next t) :
    t.fault = s.fault ∨ (s.fault = .noFault ∧ t.fault = .outOfRange) ∨ (PowersOff s ∧ t.fault = .noFault) := by
  rcases step_kinds s with hunloaded | ⟨c, hpresents⟩ | hpower
  · simp [hloaded] at hunloaded
  · cases hg : gateOpen s c with
    | false =>
      obtain rfl := step_unique (step_shut hpresents hg) hstep
      exact .inl rfl
    | true =>
      obtain rfl := step_unique (step_open hpresents hg) hstep
      rcases openState_cases c s with ⟨-, e⟩ | ⟨-, b, -, e⟩ | ⟨-, -, e⟩ <;> rw [e]
      · exact .inl rfl
      · exact .inl rfl
      · exact .inr (.inl ⟨gateOpen_noFault hg, rfl⟩)
  · obtain rfl := step_unique (step_powersOff hpower) hstep
    exact .inr (.inr ⟨hpower, rfl⟩)

end Machine

/-- Settles O46: `bootLoad_cases` gives the load's three outcomes, `step_fault_cases` has neither fault raised by a later
step, and a block that has one is stopped. -/
theorem loadRefusesWhatItCannotServe : Obligations.LoadRefusesWhatItCannotServe := by
  unfold Obligations.LoadRefusesWhatItCannotServe
  refine ⟨fun s hloaded hfault => ⟨_, step_unloaded hloaded, ?load⟩,
    fun s t k hk hloaded hstep htk => ?laterStep, fun s c hfault hpresents => ?stopped⟩
  case load =>
    have hsizes : supportedSize s.persisted.bytes.length = true ↔
        s.persisted.bytes.length ∈ [2048, 4096, 8192, 16384, 32768] := by
      simp [supportedSize_iff]
    rw [← hsizes]
    rcases bootLoad_cases s with ⟨hsize, e⟩ | ⟨hsize, hambiguous, e⟩ | ⟨hsize, hclear, l, e⟩
    · have hlen : s.persisted.bytes.length ≠ 32768 := fun h => by simp [h, supportedSize] at hsize
      rw [e]
      exact ⟨by simp [hsize], by simp [hlen], .inr rfl⟩
    · rw [e]
      exact ⟨by simp [hsize], by simp [hambiguous], .inr rfl⟩
    · rw [e]
      exact ⟨by simp [hsize, hfault], by simp [hclear, hfault], .inl hfault⟩
  case laterStep =>
    rcases step_fault_cases hloaded hstep with h | ⟨-, h⟩ | ⟨-, h⟩
    · exact h ▸ htk
    · rcases hk with rfl | rfl <;> simp [h] at htk
    · rcases hk with rfl | rfl <;> simp [h] at htk
  case stopped =>
    have hne : s.fault ≠ .noFault := by rcases hfault with h | h <;> simp [h]
    exact ⟨_, step_stopped hpresents hne, rfl, rfl, rfl⟩

end Sys2Proof

/-! PROOFS. The reset and hazards family (spec/70_reset_and_hazards.md): the bank an iteration writes is the one its own
lookup uses (R235). -/

namespace Sys2Proof

open Sys2Proof.Machine

namespace Machine

/-! ## A byte driven comes from the bank that the iteration leaves (R235) -/

/-- The state an iteration leaves after it has driven a byte still looks that byte up, in its own bank. -/
theorem byteAt_of_step_drive {s t : State} {c : BusCycle} {b : Byte} (hpresents : Presents s c)
    (hstep : step s = .next t) (hdrive : t.out = .drive b) :
    byteAt t t.bank (lookupOffset t.scheme t.len c.address) = .ok b := by
  obtain ⟨u, hu, -, hout, -, -⟩ := step_driver hpresents
  obtain rfl := step_unique hu hstep
  obtain ⟨hopen, -, hlookup⟩ := (outputOf_eq_drive_iff s c b).mp (hout ▸ hdrive)
  obtain ⟨v, hv, -, hconf⟩ := step_presents_next hpresents
  obtain rfl := step_unique hv hstep
  have hbank : v.bank = bankAfter s c := by
    obtain ⟨-, hbank, -, -⟩ := openState_fields hopen
    rwa [step_unique (step_open hpresents hopen) hstep] at hbank
  rw [hconf.byteAt_eq, hconf.scheme, hconf.len, hbank]
  exact hlookup

/-! ## The sizes of a scheme other than `None` (R8, R112) -/

theorem bankSize_of_ne_none {sch : Scheme} (hs : sch ≠ .none) (len : Nat) : bankSize sch len = 4096 := by
  cases sch
  case none => exact absurd rfl hs
  all_goals rfl

theorem len_of_tagMatchesLength {s : State} (hne : s.scheme ≠ .none) (htag : tagMatchesLength s = true) :
    s.len = bankCount s.scheme * 4096 := by
  unfold tagMatchesLength at htag
  cases hs : s.scheme <;> rw [hs] at htag
  case none => exact absurd hs hne
  case f8 | f6 | f4 | fe => exact beq_iff_eq.mp htag

/-- In a bank of 4096 bytes the masked offset is the low twelve bits of the address. -/
theorem lookupOffset_eq_mod {sch : Scheme} {len : Nat} (hsize : bankSize sch len = 4096) (a : Address) :
    lookupOffset sch len a = a.toNat % 4096 := by
  rw [lookupOffset, offsetMask, hsize, BitVec.toNat_and]
  exact Nat.and_two_pow_sub_one_eq_mod a.toNat 12

/-- A block whose image has the length of its scheme answers the lookup of every bank of the scheme. -/
theorem lookupAfter_of_tagMatchesLength {s : State} {c : BusCycle} (hne : s.scheme ≠ .none)
    (htag : tagMatchesLength s = true) (hbank : bankAfter s c < bankCount s.scheme) :
    lookupAfter s c = .ok (s.image.read (bankAfter s c * 4096 + c.address.toNat % 4096)) := by
  have hsize := bankSize_of_ne_none hne s.len
  have hlen := len_of_tagMatchesLength hne htag
  rw [lookupAfter, lookupOffset_eq_mod hsize, byteAt_of_valid]
  · rw [imageIndex, hsize]
  · rw [imageIndex, hsize]
    omega

/-! ## The bank that a hotspot selects (R136) -/

theorem hotspotBank_of_hotspotBase {sch : Scheme} {base : Nat} (hbase : hotspotBase sch = some base) (c : BusCycle) :
    hotspotBank sch c = c.address.toNat - base := by
  rw [hotspotBank, hbase, Option.getD_some]

theorem bankAfter_of_qualifies {s : State} {c : BusCycle} (hq : qualifies s.params s.scheme c = true) :
    bankAfter s c = hotspotBank s.scheme c := by
  have hfe : s.scheme ≠ .fe := fun hs => by simp [hs, qualifies, hotspotBase] at hq
  rw [bankAfter_of_ne_fe hfe, if_pos hq]

end Machine

/-- Settles O37: the lookup is made in the state that stage BANK leaves, whose bank no later stage writes; the bank that
a hotspot selects lies within the scheme's bank count, so that an image of the scheme's length answers its lookup. -/
theorem hotspotReadIsServedFromItsNewBank : Obligations.HotspotReadIsServedFromItsNewBank := by
  unfold Obligations.HotspotReadIsServedFromItsNewBank
  refine ⟨fun _ _ _ _ => byteAt_of_step_drive,
    fun s c base hpresents hopen hbase hq hwrite hwindow htag => ?hotspotRead⟩
  case hotspotRead =>
    have hne : s.scheme ≠ .none := fun hs => by simp [hs, hotspotBase] at hbase
    have hbank := bankAfter_of_qualifies hq
    have hlookup := lookupAfter_of_tagMatchesLength hne htag (hbank ▸ hotspotBank_lt hq)
    rw [hbank] at hlookup
    have hread := (readInWindow_iff s c).mpr ⟨hwrite, hwindow⟩
    obtain ⟨t, hstep, hout, -, -, hleft, -⟩ := step_serves_of_lookup_ok hpresents hopen hread hlookup
    rw [hbank] at hleft
    rw [← hotspotBank_of_hotspotBase hbase]
    exact ⟨t, hstep, hleft, hout⟩

end Sys2Proof

/-! PROOFS. The encoding and the step: a word's decode and an operation's word are inverse (spec/30_encoding.md), a step
runs the operations decoded, and no run ends by itself (spec/70_reset_and_hazards.md section 5). -/

namespace Sys2Proof

open Sys2Proof.Machine Sys2Proof.Laws

/-! ## Decode of encode is the identity -/

theorem roundTrip : ∀ i : Instr, RoundTrip.Statement i
  | .gateStopped c => RoundTrip.gateStopped c
  | .gateHold w a => RoundTrip.gateHold w a
  | .gateArm w a => RoundTrip.gateArm w a
  | .gateAdvance c => RoundTrip.gateAdvance c
  | .gatePass c => RoundTrip.gatePass c
  | .bankNone c => RoundTrip.bankNone c
  | .bankF80 h w => RoundTrip.bankF80 h w
  | .bankF81 h w => RoundTrip.bankF81 h w
  | .bankF8Nop c => RoundTrip.bankF8Nop c
  | .bankF60 h w => RoundTrip.bankF60 h w
  | .bankF61 h w => RoundTrip.bankF61 h w
  | .bankF62 h w => RoundTrip.bankF62 h w
  | .bankF63 h w => RoundTrip.bankF63 h w
  | .bankF6Nop c => RoundTrip.bankF6Nop c
  | .bankF40 h w => RoundTrip.bankF40 h w
  | .bankF41 h w => RoundTrip.bankF41 h w
  | .bankF42 h w => RoundTrip.bankF42 h w
  | .bankF43 h w => RoundTrip.bankF43 h w
  | .bankF44 h w => RoundTrip.bankF44 h w
  | .bankF45 h w => RoundTrip.bankF45 h w
  | .bankF46 h w => RoundTrip.bankF46 h w
  | .bankF47 h w => RoundTrip.bankF47 h w
  | .bankF4Nop c => RoundTrip.bankF4Nop c
  | .bankFeObserve c => RoundTrip.bankFeObserve c
  | .dataWrite h a => RoundTrip.dataWrite h a
  | .dataRead h a => RoundTrip.dataRead h a
  | .dataOutside c => RoundTrip.dataOutside c
  | .rel c => RoundTrip.rel c

/-- Settles O1: the round trip of each constructor. -/
theorem decodeRecoversEveryEncodedOperation : Obligations.DecodeRecoversEveryEncodedOperation := by
  unfold Obligations.DecodeRecoversEveryEncodedOperation
  exact fun x i => roundTrip i x

/-! ## Every stage's table selects an operation of the word, whose row holds -/

/-- `i` is an operation of stage `st` that the bus cycle `c` may select in the context `x`. -/
structure Instr.Fits (x : DecodeContext) (st : Stage) (c : BusCycle) (i : Instr) : Prop where
  stage : i.stage = st
  wf    : i.wf x = true
  cycle : i.cycle = c

/-- Stage GATE: one row for a stopped block, two for an idle one, one for each other phase (R84). -/
theorem decodeGate_fits (x : DecodeContext) (c : BusCycle) : (decodeGate x c.word).Fits x .gate c := by
  obtain ⟨a, w, h⟩ := c
  rw [decodeGate_word]
  by_cases hf : x.fault = .noFault
  · cases hp : x.phase with
    | idle => cases h <;> exact ⟨by simp [hf, Instr.stage], by simp [hf, hp, Instr.wf], by simp [hf, Instr.cycle]⟩
    | armed => exact ⟨by simp [hf, Instr.stage], by simp [hf, hp, Instr.wf], by simp [hf, Instr.cycle]⟩
    | running => exact ⟨by simp [hf, Instr.stage], by simp [hf, hp, Instr.wf], by simp [hf, Instr.cycle]⟩
  · exact ⟨by simp [hf, Instr.stage], by simp [hf, Instr.wf], by simp [hf, Instr.cycle]⟩

/-- A hotspot row fits the cycles at its own address in a direction its scheme triggers on. -/
theorem fits_of_hotspotOf {x : DecodeContext} {c : BusCycle} {i : Instr} {sch : Scheme} {n : Nat} (hs : x.scheme = sch)
    (hd : dirOk (triggerDir x.params sch) c.isWrite = true) (hi : hotspotOf i = some (sch, n)) (hc : i.cycle = c) :
    i.Fits x .bank c :=
  ⟨stage_of_hotspotOf hi, by rw [wf_of_hotspotOf hi, hc]; simp [hotspotRowHolds, hs, hd], hc⟩

theorem defaultRow_fits {x : DecodeContext} {c : BusCycle} (hq : qualifies x.params x.scheme c = false) :
    (x.scheme.defaultRow c).Fits x .bank c := by
  cases hs : x.scheme <;> rw [hs] at hq
  case none => exact ⟨rfl, by simp [Scheme.defaultRow, Instr.wf, hs], rfl⟩
  case fe => exact ⟨rfl, by simp [Scheme.defaultRow, Instr.wf, hs], rfl⟩
  all_goals exact ⟨rfl, by simp [Scheme.defaultRow, Instr.wf, nopRowHolds, hs, hq], rfl⟩

/-- A qualifying cycle is that of one of its scheme's hotspot rows (R61, R136). -/
theorem exists_hotspotOf_of_qualifies {p : Params} {sch : Scheme} {c : BusCycle} (hq : qualifies p sch c = true) :
    ∃ i n, hotspotOf i = some (sch, n) ∧ i.cycle = c ∧ dirOk (triggerDir p sch) c.isWrite = true := by
  cases sch with
  | none => simp [qualifies, hotspotBase] at hq
  | fe => simp [qualifies, hotspotBase] at hq
  | f8 =>
    obtain ⟨ha, hd⟩ := (qualifies_f8 p c).mp hq
    rcases ha with ha | ha
    · exact ⟨.bankF80 c.halted c.isWrite, _, rfl, BusCycle.eq_of_address ha, hd⟩
    · exact ⟨.bankF81 c.halted c.isWrite, _, rfl, BusCycle.eq_of_address ha, hd⟩
  | f6 =>
    obtain ⟨ha, hd⟩ := (qualifies_f6 p c).mp hq
    rcases ha with ha | ha | ha | ha
    · exact ⟨.bankF60 c.halted c.isWrite, _, rfl, BusCycle.eq_of_address ha, hd⟩
    · exact ⟨.bankF61 c.halted c.isWrite, _, rfl, BusCycle.eq_of_address ha, hd⟩
    · exact ⟨.bankF62 c.halted c.isWrite, _, rfl, BusCycle.eq_of_address ha, hd⟩
    · exact ⟨.bankF63 c.halted c.isWrite, _, rfl, BusCycle.eq_of_address ha, hd⟩
  | f4 =>
    obtain ⟨ha, hd⟩ := (qualifies_f4 p c).mp hq
    rcases ha with ha | ha | ha | ha | ha | ha | ha | ha
    · exact ⟨.bankF40 c.halted c.isWrite, _, rfl, BusCycle.eq_of_address ha, hd⟩
    · exact ⟨.bankF41 c.halted c.isWrite, _, rfl, BusCycle.eq_of_address ha, hd⟩
    · exact ⟨.bankF42 c.halted c.isWrite, _, rfl, BusCycle.eq_of_address ha, hd⟩
    · exact ⟨.bankF43 c.halted c.isWrite, _, rfl, BusCycle.eq_of_address ha, hd⟩
    · exact ⟨.bankF44 c.halted c.isWrite, _, rfl, BusCycle.eq_of_address ha, hd⟩
    · exact ⟨.bankF45 c.halted c.isWrite, _, rfl, BusCycle.eq_of_address ha, hd⟩
    · exact ⟨.bankF46 c.halted c.isWrite, _, rfl, BusCycle.eq_of_address ha, hd⟩
    · exact ⟨.bankF47 c.halted c.isWrite, _, rfl, BusCycle.eq_of_address ha, hd⟩

/-- Stage BANK: a hotspot's row if the cycle qualifies, else the default row (R85, R136). -/
theorem decodeBank_fits (x : DecodeContext) (c : BusCycle) : (decodeBank x c.word).Fits x .bank c := by
  cases hq : qualifies x.params x.scheme c with
  | false =>
    rw [decodeBank_of_not_qualifies hq]
    exact defaultRow_fits hq
  | true =>
    obtain ⟨i, n, hi, hc, hd⟩ := exists_hotspotOf_of_qualifies hq
    have hfits := fits_of_hotspotOf rfl hd hi hc
    have hdecode := roundTrip i x hfits.wf
    rw [hfits.stage, encode_eq, hc] at hdecode
    change decodeBank x c.word = i at hdecode
    rwa [hdecode]

/-- Stage DATA: writes, reads inside the window, reads outside it (R86). -/
theorem decodeData_fits (x : DecodeContext) (c : BusCycle) : (decodeData x c.word).Fits x .data c := by
  obtain ⟨a, w, h⟩ := c
  rw [decodeData_word]
  cases w with
  | true => exact ⟨rfl, rfl, rfl⟩
  | false =>
    cases hw : inWindow x.params a with
    | true => exact ⟨rfl, hw, rfl⟩
    | false => exact ⟨rfl, by simp [Instr.wf, hw], rfl⟩

theorem decodeRel_fits (x : DecodeContext) (c : BusCycle) : (decodeRel c.word).Fits x .rel c := by
  rw [decodeRel_word]
  exact ⟨rfl, rfl, rfl⟩

theorem decodeStage_fits (x : DecodeContext) (st : Stage) (c : BusCycle) : (decodeStage st x c.word).Fits x st c := by
  cases st with
  | gate => exact decodeGate_fits x c
  | bank => exact decodeBank_fits x c
  | data => exact decodeData_fits x c
  | rel => exact decodeRel_fits x c

/-- Settles O2: the table's own choice is one such operation, and by the round trip every other is the table's choice
too. -/
theorem everyWordSelectsExactlyOneOperationPerStage : Obligations.EveryWordSelectsExactlyOneOperationPerStage := by
  unfold Obligations.EveryWordSelectsExactlyOneOperationPerStage
  intro x st w
  refine ⟨decodeStage st x w, ?selected, fun i ⟨hstage, hwf, hword⟩ => ?unique⟩
  case selected =>
    have hfits := decodeStage_fits x st (BusCycle.ofWord w)
    rw [BusCycle.word_ofWord] at hfits
    exact ⟨hfits.stage, hfits.wf, by rw [encode_eq, hfits.cycle, BusCycle.word_ofWord]⟩
  case unique =>
    rw [← hstage, ← hword]
    exact (roundTrip i x hwf).symm

/-- Settles O4: each word falls into the row its fields say. -/
theorem sampleWordsDecodeAsTheTablesSay : Obligations.SampleWordsDecodeAsTheTablesSay := by
  unfold Obligations.SampleWordsDecodeAsTheTablesSay
  exact ⟨rfl, rfl, rfl, rfl, rfl, rfl, rfl, rfl, rfl, rfl, rfl, rfl, rfl, rfl, rfl⟩

/-! ## The step runs the operations decoded -/

theorem decodeIteration_cases (x : DecodeContext) (w : Word) :
    decodeIteration x w = [decodeGate x w, decodeRel w] ∨
    decodeIteration x w = [decodeGate x w, decodeBank x w, decodeData x w, decodeRel w] := by
  cases hg : (decodeGate x w).goesOn with
  | false => exact .inl (by simp [decodeIteration, hg])
  | true => exact .inr (by simp [decodeIteration, hg])

/-- Every operation of an iteration is the choice of its stage's table. -/
theorem eq_decodeStage_of_mem_decodeIteration {x : DecodeContext} {w : Word} {i : Instr}
    (hi : i ∈ decodeIteration x w) : ∃ st, i = decodeStage st x w := by
  rcases decodeIteration_cases x w with h | h <;> rw [h] at hi <;>
    simp only [List.mem_cons, List.not_mem_nil, or_false] at hi
  · rcases hi with rfl | rfl
    exacts [⟨.gate, rfl⟩, ⟨.rel, rfl⟩]
  · rcases hi with rfl | rfl | rfl | rfl
    exacts [⟨.gate, rfl⟩, ⟨.bank, rfl⟩, ⟨.data, rfl⟩, ⟨.rel, rfl⟩]

/-- Settles O7: an iteration is its decoded operations by definition, and every one of them fits the cycle. -/
theorem stepRunsTheDecodedOperations : Obligations.StepRunsTheDecodedOperations := by
  unfold Obligations.StepRunsTheDecodedOperations
  intro s c hpresents
  refine ⟨step_presents hpresents, decodeIteration_cases _ _, fun i hi => ?_⟩
  obtain ⟨st, rfl⟩ := eq_decodeStage_of_mem_decodeIteration hi
  have hfits := decodeStage_fits (context s) st c
  exact ⟨hfits.wf, by rw [encode_eq, hfits.cycle]⟩

/-! ## The operation a placed word stands for (log 11) -/

/-- A table word stands for one of the operations of the iteration on it. -/
theorem tableOperation_mem (w : Word) : tableOperation w ∈ decodeIteration (tableContext w) w := by
  cases hg : (decodeGate (tableContext w) w).goesOn with
  | false => simp [tableOperation, decodeIteration, hg]
  | true =>
    by_cases hs : (tableContext w).scheme = .none
    · simp [tableOperation, decodeIteration, hg, hs]
    · simp [tableOperation, decodeIteration, hg, hs]

theorem tableOperation_cycle (w : Word) : (tableOperation w).cycle = BusCycle.ofWord w := by
  obtain ⟨st, h⟩ := eq_decodeStage_of_mem_decodeIteration (tableOperation_mem w)
  have hfits := decodeStage_fits (tableContext w) st (BusCycle.ofWord w)
  rw [BusCycle.word_ofWord] at hfits
  rw [h, hfits.cycle]

/-- A word is placed in the context it is read in: the parameters that no decode table reads are the state's own. -/
theorem decodeIteration_withFetchWord (s : State) (n : Nat) {w : Nat} (h : w < 2 ^ 18) (v : Word) :
    decodeIteration (context (s.withFetchWord n w)) v = decodeIteration (tableContext (BitVec.ofNat 18 w)) v := by
  unfold State.withFetchWord placeWord
  rw [wordOfNat_of_lt h]
  rfl

/-- Settles O8: the operation is one of the iteration on the word, in the context the word is placed in. -/
theorem placedWordIsRunByTheNextStep : Obligations.PlacedWordIsRunByTheNextStep := by
  unfold Obligations.PlacedWordIsRunByTheNextStep
  intro s n w i hi
  by_cases hw : w < 2 ^ 18
  · rw [decodeTableWord, wordOfNat_of_lt hw] at hi
    obtain rfl : tableOperation (BitVec.ofNat 18 w) = i := Option.some.inj hi
    rw [encode_eq, tableOperation_cycle, BusCycle.word_ofWord, decodeIteration_withFetchWord s n hw]
    exact ⟨rfl, withFetchWord_presents hw, tableOperation_mem _⟩
  · rw [decodeTableWord, wordOfNat_of_ge hw] at hi
    cases hi

/-! ## No run ends by itself -/

namespace Machine

theorem step_next (s : State) : ∃ t, step s = .next t := by
  rcases step_kinds s with hunloaded | ⟨c, hpresents⟩ | hpower
  · exact ⟨_, step_unloaded hunloaded⟩
  · rw [step_presents hpresents]
    exact execAll_next _ _
  · exact ⟨_, step_powersOff hpower⟩

end Machine

/-- Settles O10: every step answers a next state, so by induction every run does. -/
theorem runNeverEnds : Obligations.RunNeverEnds := by
  unfold Obligations.RunNeverEnds
  intro n
  induction n with
  | zero => exact fun s => ⟨s, rfl⟩
  | succ n ih =>
    intro s
    obtain ⟨t, hstep⟩ := step_next s
    rw [runSteps_succ hstep]
    exact ih t

end Sys2Proof

/-! PROOFS. The operations, one by one: what each changes and what it leaves (spec/10_state.md section 1,
spec/30_encoding.md R84 to R86), and the lookup they share (R114). -/

namespace Sys2Proof

open Sys2Proof.Machine

/-! ## The operations -/

/-- Settles O13: each is its definition, a write of `PHASE` or of the output. -/
theorem gateOperationsWriteOnlyThePhase : Obligations.GateOperationsWriteOnlyThePhase := by
  unfold Obligations.GateOperationsWriteOnlyThePhase
  exact fun _ _ _ _ => ⟨rfl, rfl, rfl, rfl, rfl⟩

/-- Settles O14. -/
theorem hotspotOperationsWriteTheirBank : Obligations.HotspotOperationsWriteTheirBank := by
  unfold Obligations.HotspotOperationsWriteTheirBank
  exact fun _ s _ _ hi => exec_of_hotspotOf hi s

/-- Settles O15: each is the default row of a scheme other than FE. -/
theorem defaultBankOperationsChangeNothing : Obligations.DefaultBankOperationsChangeNothing := by
  unfold Obligations.DefaultBankOperationsChangeNothing
  intro c s
  exact ⟨exec_defaultRow (sch := .none) (by decide) c s, exec_defaultRow (sch := .f8) (by decide) c s,
    exec_defaultRow (sch := .f6) (by decide) c s, exec_defaultRow (sch := .f4) (by decide) c s⟩

namespace Machine

theorem observeCycle_eq (select : List HistEntry → Option Nat) (c : BusCycle) (s : State) :
    observeCycle select c s = { s with
      hist := pushHistory s.params.feDepth c s.hist
      bank := (select (pushHistory s.params.feDepth c s.hist)).getD s.bank } := by
  unfold observeCycle
  cases h : select (pushHistory s.params.feDepth c s.hist) <;> simp [h]

/-- A location beyond any one of the three bounds is refused (R114). -/
theorem byteAt_of_out {s : State} {bank offset : Nat}
    (h : bankSize s.scheme s.len ≤ offset ∨ bankCount s.scheme ≤ bank ∨ s.len ≤ imageIndex s bank offset) :
    byteAt s bank offset = .error .outOfRange :=
  byteAt_of_invalid (by omega)

end Machine

/-- Settles O16: `observeCycle_eq` with the uninterpreted selector. -/
theorem feObserveFeedsTheHistory : Obligations.FeObserveFeedsTheHistory := by
  unfold Obligations.FeObserveFeedsTheHistory
  exact fun c s => congrArg Host.Outcome.next (observeCycle_eq Config.feSelect c s)

/-- Settles O17: `byte_at` answers by the validity of the location, and the read drives or raises by its answer. -/
theorem dataReadServesOrRaises : Obligations.DataReadServesOrRaises := by
  unfold Obligations.DataReadServesOrRaises
  refine fun h a s => ⟨fun hoffset hbank hindex => ?serves, fun hout => ?raises⟩
  case serves => exact congrArg Host.Outcome.next (serveRead_ok (byteAt_of_valid ⟨hoffset, hbank, hindex⟩))
  case raises => exact congrArg Host.Outcome.next (serveRead_error (byteAt_of_out hout))

/-- Settles O18: each is its definition. -/
theorem undrivenOperationsAndRelease : Obligations.UndrivenOperationsAndRelease := by
  unfold Obligations.UndrivenOperationsAndRelease
  exact fun _ _ _ _ => ⟨rfl, rfl, rfl⟩

/-! ## Each stage writes what it owns -/

namespace Machine

theorem exec_gate_frame {i : Instr} {s t : State} (hi : i.stage = .gate) (h : exec i s = .next t) :
    t = { s with phase := t.phase, out := t.out } := by
  cases i <;> cases hi <;> cases h <;> rfl

theorem exec_bank_frame {i : Instr} {s t : State} (hi : i.stage = .bank) (h : exec i s = .next t) :
    t = { s with bank := t.bank, hist := t.hist } := by
  cases i <;> cases hi <;> cases h
  case bankFeObserve c => rw [observeCycle_eq]
  all_goals rfl

theorem serveRead_frame (a : Address) (s : State) :
    serveRead a s = { s with
      dout := (serveRead a s).dout, oe := (serveRead a s).oe, fault := (serveRead a s).fault
      out := (serveRead a s).out } := by
  cases hb : byteAt s s.bank (lookupOffset s.scheme s.len a) with
  | ok b => rw [serveRead_ok hb]; rfl
  | error k => rw [serveRead_error hb]; rfl

theorem exec_data_frame {i : Instr} {s t : State} (hi : i.stage = .data) (h : exec i s = .next t) :
    t = { s with dout := t.dout, oe := t.oe, fault := t.fault, out := t.out } := by
  cases i <;> cases hi <;> cases h
  case dataRead _ address => exact serveRead_frame address s
  all_goals rfl

theorem exec_rel_frame {i : Instr} {s t : State} (hi : i.stage = .rel) (h : exec i s = .next t) :
    t = { s with oe := t.oe } := by
  cases i <;> cases hi
  cases h
  rfl

end Machine

/-- Settles O19: the frame of each stage, of which only `BANK_FE_OBSERVE` and `DATA_READ` branch on the state. -/
theorem eachStageWritesOnlyWhatItOwns : Obligations.EachStageWritesOnlyWhatItOwns := by
  unfold Obligations.EachStageWritesOnlyWhatItOwns
  exact fun _ _ _ h => ⟨fun hi => exec_gate_frame hi h, fun hi => exec_bank_frame hi h,
    fun hi => exec_data_frame hi h, fun hi => exec_rel_frame hi h⟩

/-! ## The lookup (R114) and its offset (R117, R68) -/

/-- Settles O50: a location is valid, or beyond one of the three bounds; the examples
have `LEN` 8192. -/
theorem byteAtChecksEveryBound : Obligations.ByteAtChecksEveryBound := by
  unfold Obligations.ByteAtChecksEveryBound
  refine ⟨fun _ _ _ => ⟨byteAt_of_valid, byteAt_of_out⟩, fun s hscheme hlen => ⟨?_, ?_, ?_⟩⟩
  · exact byteAt_of_out (.inl (by rw [hscheme]; exact le_rfl))
  · exact byteAt_of_out (.inr (.inl (by rw [hscheme]; exact le_rfl)))
  · have hindex : imageIndex s 1 0x0FFF = 8191 := by rw [imageIndex, hscheme]; rfl
    rw [byteAt_of_valid, hindex]
    rw [hindex, hscheme, hlen]
    decide

namespace Machine

/-- In a loaded image `offset_mask` keeps the low bits of the address that count inside a bank. -/
theorem lookupOffset_eq_mod_bankSize (sch : Scheme) {len : Nat} (hlen : supportedSize len = true) (a : Address) :
    lookupOffset sch len a = a.toNat % bankSize sch len := by
  rcases bankSize_cases sch hlen with hsize | hsize
  · rw [lookupOffset, offsetMask, hsize, BitVec.toNat_and]
    exact Nat.and_two_pow_sub_one_eq_mod a.toNat 11
  · rw [lookupOffset_eq_mod hsize, hsize]

theorem lookupOffset_lt_bankSize (sch : Scheme) {len : Nat} (hlen : supportedSize len = true) (a : Address) :
    lookupOffset sch len a < bankSize sch len := by
  rw [lookupOffset_eq_mod_bankSize sch hlen]
  refine Nat.mod_lt _ ?_
  rcases bankSize_cases sch hlen with hsize | hsize <;> omega

end Machine

/-- Settles O40: the masked offset is the address modulo `bank_size`, which an offset below `bank_size` is already. -/
theorem maskedOffsetIsInsideTheBank : Obligations.MaskedOffsetIsInsideTheBank := by
  unfold Obligations.MaskedOffsetIsInsideTheBank
  refine fun sch len a hlen => ⟨lookupOffset_lt_bankSize sch hlen a, fun offset hoffset => ?_⟩
  have haddress : offset < 2 ^ 16 := by
    rcases bankSize_cases sch hlen with hsize | hsize <;> omega
  rw [lookupOffset_eq_mod_bankSize sch hlen, BitVec.toNat_ofNat, Nat.mod_eq_of_lt haddress, Nat.mod_eq_of_lt hoffset]

namespace Machine

/-- A flip of bits that a mask leaves out is not seen through the mask. -/
theorem xor_and_of_and_eq_zero {n : Nat} {flip mask : BitVec n} (h : flip &&& mask = 0#n) (a : BitVec n) :
    (a ^^^ flip) &&& mask = a &&& mask := by
  apply BitVec.eq_of_getLsbD_eq
  intro i _
  have hbit := congrArg (fun v : BitVec n => v.getLsbD i) h
  simp only [BitVec.getLsbD_and, BitVec.getLsbD_zero] at hbit
  simp only [BitVec.getLsbD_and, BitVec.getLsbD_xor, Bool.and_xor_distrib_right, hbit, Bool.xor_false]

/-- No bank is larger than 4096 bytes, so no offset mask has bit 12 (R8). -/
theorem bit12_and_offsetMask (sch : Scheme) (len : Nat) : (0x1000 : Address) &&& offsetMask sch len = 0 := by
  have hsize : bankSize sch len - 1 < 2 ^ 12 := by
    cases sch <;> simp only [bankSize] <;> omega
  have hbit : (offsetMask sch len).getLsbD 12 = false := by
    rw [offsetMask, BitVec.getLsbD_ofNat, Nat.testBit_lt_two_pow hsize, Bool.and_false]
  have hflip : (0x1000 : Address) = BitVec.twoPow 16 12 := by decide
  rw [hflip, BitVec.twoPow_and, hbit]
  rfl

end Machine

/-- Settles O39: bit 12 is neither in the default window's mask nor in any offset mask. -/
theorem windowMirrorsReadTheSameOffset : Obligations.WindowMirrorsReadTheSameOffset := by
  unfold Obligations.WindowMirrorsReadTheSameOffset
  refine fun sch len a => ⟨?window, ?offset⟩
  case window =>
    have hmask : (0x1000 : Address) &&& Config.params.windowMask = 0 := by decide
    rw [inWindow, inWindow, xor_and_of_and_eq_zero hmask]
  case offset => rw [lookupOffset, lookupOffset, xor_and_of_and_eq_zero (bit12_and_offsetMask sch len)]

end Sys2Proof

/-! PROOFS. The invariant (spec/10_state.md section 6): it holds when power is applied, and a load, an iteration and a
power cycle keep it. -/

namespace Sys2Proof

open Sys2Proof.Machine

namespace Machine

/-! ## When power is applied -/

/-- With nothing loaded the clauses about a configuration are empty. -/
theorem inv_powerOn {p : Params} (hp : p.wf = true) (a : Artifact) (es : List Event) (n : Nat) :
    Inv (State.powerOn p a es n) where
  released := rfl
  canonical := rfl
  inside := fun _ h => absurd h List.not_mem_nil
  paramsWf := hp
  unloaded := fun _ => ⟨rfl, rfl, rfl⟩
  loadFailed := fun _ => ⟨rfl, rfl⟩
  sizeSupported := fun h => Bool.noConfusion h
  historyBound := fun _ => Nat.zero_le _
  historyFeOnly := fun _ _ => rfl
  bankInRange := fun h => Bool.noConfusion h
  idleIsReset := fun h => Bool.noConfusion h

theorem config_params_wf : Config.params.wf = true := by
  simp [Params.wf, Config.params]

end Machine

/-- Settles O11: `State.reset` is a state in which power has just been applied. -/
theorem invariantHoldsAtReset : Obligations.InvariantHoldsAtReset := by
  unfold Obligations.InvariantHoldsAtReset
  exact inv_powerOn config_params_wf _ _ _

/-- Settles O51: the fields of `State.powerOn`; `FE_DEPTH` is a free value plus one. -/
theorem powerOnStateIsAsTheSpecSays : Obligations.PowerOnStateIsAsTheSpecSays := by
  unfold Obligations.PowerOnStateIsAsTheSpecSays
  exact ⟨rfl, rfl, rfl, rfl, rfl, rfl, rfl, rfl, rfl, rfl, rfl, rfl, Nat.le_add_left 1 _⟩

namespace Machine

/-! ## The load -/

theorem configured_iff (s : State) :
    configured s = true ↔ s.loaded = true ∧ s.fault ≠ .invalidImageSize ∧ s.fault ≠ .ambiguousScheme := by
  simp only [configured, Bool.and_eq_true, bne_iff_ne, and_assoc]

theorem imageInside_ofBytes (bs : List Byte) {cell : Host.Cell} (h : cell ∈ Memory.ofBytes bs) :
    cell.1 < bs.length := by
  obtain ⟨-, hlt⟩ := Memory.ofBytesFrom_inside h
  rwa [Nat.zero_add] at hlt

/-- A load that fails leaves no configuration to speak of, and the phase and the history of power-on. -/
theorem inv_raise_load {s : State} {k : FaultKind} (h : Inv s) (hloaded : s.loaded = false)
    (hk : k = .invalidImageSize ∨ k = .ambiguousScheme) : Inv (raise k { s with loaded := true }) := by
  obtain ⟨hphase, -, hhist⟩ := h.unloaded hloaded
  have hnot : ¬ configured (raise k { s with loaded := true }) = true := by
    rw [configured_iff]
    rintro ⟨-, hsize, hscheme⟩
    exact hk.elim hsize hscheme
  exact {
    released := h.released
    canonical := h.canonical
    inside := h.inside
    paramsWf := h.paramsWf
    unloaded := fun hl => Bool.noConfusion hl
    loadFailed := fun _ => ⟨hphase, hhist⟩
    sizeSupported := fun hc => absurd hc hnot
    historyBound := fun hc => absurd hc hnot
    historyFeOnly := fun hc => absurd hc hnot
    bankInRange := fun hc => absurd hc hnot
    idleIsReset := fun hc => absurd hc hnot }

/-- A load that succeeds establishes an image of a supported length and the reset bank. -/
theorem inv_establish {s : State} {bs : List Byte} (sch : Scheme) (h : Inv s) (hloaded : s.loaded = false)
    (hsize : supportedSize bs.length = true) :
    Inv (establish { image := Memory.ofBytes bs, len := bs.length, scheme := sch } { s with loaded := true }) := by
  obtain ⟨hphase, -, hhist⟩ := h.unloaded hloaded
  exact {
    released := h.released
    canonical := Memory.ofBytes_wf bs
    inside := fun _ hcell => imageInside_ofBytes bs hcell
    paramsWf := h.paramsWf
    unloaded := fun hl => Bool.noConfusion hl
    loadFailed := fun _ => ⟨hphase, hhist⟩
    sizeSupported := fun _ => hsize
    historyBound := fun _ => by simp [hhist]
    historyFeOnly := fun _ _ => hhist
    bankInRange := fun _ _ => resetBank_lt s.params sch
    idleIsReset := fun _ _ => ⟨rfl, hhist⟩ }

theorem inv_bootLoad {s : State} (h : Inv s) (hloaded : s.loaded = false) : Inv (bootLoad s) := by
  rcases load_cases s.persisted with ⟨-, hl⟩ | ⟨-, -, -, hl⟩ | ⟨hsize, sch, -, hl⟩
  · rw [bootLoad_error hl]
    exact inv_raise_load h hloaded (.inl rfl)
  · rw [bootLoad_error hl]
    exact inv_raise_load h hloaded (.inr rfl)
  · rw [bootLoad_ok hl]
    exact inv_establish sch h hloaded hsize

/-! ## An iteration -/

/-- An iteration stopped or held changes no field that the invariant reads but `OE`, which it clears. -/
theorem inv_shutState {s : State} (h : Inv s) : Inv (shutState s) :=
  { h with released := rfl }

theorem openState_sameConfiguration {s : State} {c : BusCycle} (hopen : gateOpen s c = true) :
    SameConfiguration s (openState c s) :=
  runCycle_sameConfiguration (runCycle_open hopen).2

theorem openState_fault {s : State} {c : BusCycle} (hopen : gateOpen s c = true) :
    (openState c s).fault = .noFault ∨ (openState c s).fault = .outOfRange := by
  have hfault := gateOpen_noFault hopen
  rcases openState_cases c s with ⟨-, e⟩ | ⟨-, b, -, e⟩ | ⟨-, -, e⟩ <;> rw [e]
  exacts [.inl hfault, .inl hfault, .inr rfl]

theorem histAfter_length_le {s : State} (h : s.hist.length ≤ s.params.feDepth) (c : BusCycle) :
    (histAfter s c).length ≤ s.params.feDepth := by
  by_cases hs : s.scheme = .fe
  · rw [histAfter_of_fe hs]
    exact List.length_take_le _ _
  · rwa [histAfter_of_ne_fe hs]

theorem bankAfter_lt {s : State} (hs : s.scheme ≠ .fe) (h : s.bank < bankCount s.scheme) (c : BusCycle) :
    bankAfter s c < bankCount s.scheme := by
  cases hq : qualifies s.params s.scheme c with
  | true => exact bankAfter_of_qualifies hq ▸ hotspotBank_lt hq
  | false => rwa [bankAfter_of_not_qualifies hs hq]

/-- An iteration let through keeps the configuration, takes the phase out of `Idle`, and writes a history and a bank
that stay within their bounds. -/
theorem inv_openState {s : State} {c : BusCycle} (h : Inv s) (hloaded : s.loaded = true)
    (hopen : gateOpen s c = true) : Inv (openState c s) := by
  have hfault := openState_fault hopen
  have hconfigured : configured s = true := by
    simp [configured_iff, hloaded, gateOpen_noFault hopen]
  obtain ⟨himage, hlen, hscheme, hparams, -, hkept⟩ := openState_sameConfiguration hopen
  obtain ⟨hphase, hbank, hhist, -⟩ := openState_fields hopen
  obtain ⟨hoe, -, -⟩ := openState_driver c s
  exact {
    released := hoe
    canonical := himage ▸ h.canonical
    inside := by
      rw [imageInside, himage, hlen]
      exact h.inside
    paramsWf := hparams ▸ h.paramsWf
    unloaded := fun hl => by simp [hkept, hloaded] at hl
    loadFailed := fun hf => by rcases hfault with hf' | hf' <;> simp [hf'] at hf
    sizeSupported := fun _ => hlen ▸ h.sizeSupported hconfigured
    historyBound := fun _ => by
      rw [hhist, hparams]
      exact histAfter_length_le (h.historyBound hconfigured) c
    historyFeOnly := fun _ hs => by
      rw [hscheme] at hs
      rw [hhist, histAfter_of_ne_fe hs, h.historyFeOnly hconfigured hs]
    bankInRange := fun _ hs => by
      rw [hscheme] at hs ⊢
      rw [hbank]
      exact bankAfter_lt hs (h.bankInRange hconfigured hs) c
    idleIsReset := fun _ hidle => absurd (hphase ▸ hidle) (phaseAfter_ne_idle s.phase) }

end Machine

/-- Settles O12: the load, the iteration by whether the gate lets its cycle through, and the power cycle. -/
theorem everyStepKeepsTheInvariant : Obligations.EveryStepKeepsTheInvariant := by
  unfold Obligations.EveryStepKeepsTheInvariant
  intro s t h hstep
  rcases step_kinds s with hunloaded | ⟨c, hpresents⟩ | hpower
  · obtain rfl := step_unique (step_unloaded hunloaded) hstep
    exact inv_bootLoad h hunloaded
  · cases hg : gateOpen s c with
    | false =>
      obtain rfl := step_unique (step_shut hpresents hg) hstep
      exact inv_shutState h
    | true =>
      obtain rfl := step_unique (step_open hpresents hg) hstep
      exact inv_openState h hpresents.1 hg
  · obtain rfl := step_unique (step_powersOff hpower) hstep
    exact inv_powerOn h.paramsWf _ _ _

end Sys2Proof

/-! PROOFS. The Halt Synchronizer and the Bank State Machine over steps and runs: the held block
(spec/43_halt_synchronizer.md section 2), the phase (spec/10_state.md section 3), the history and the bank
(spec/41_bank_state_machine.md). -/

namespace Sys2Proof

open Sys2Proof.Machine

namespace Machine

/-! ## Cycles that the gate stops or holds -/

/-- Where nothing was driven before, a cycle stopped or held is consumed and leaves all else. -/
theorem shutState_of_undriven {s : State} (hoe : s.oe = false) (hout : s.out = .hiZ) :
    shutState s = { s with input := s.input.tail, events := s.events + 1 } := by
  rw [shutState_eq, ← hoe, ← hout]

theorem step_held {s : State} {c : BusCycle} (hpresents : Presents s c) (hphase : s.phase = .idle)
    (hhalted : c.halted = true) : step s = .next (shutState s) :=
  step_shut hpresents ((gateOpen_eq_false_iff s c).mpr (.inr ⟨hphase, hhalted⟩))

/-- By induction on the cycles: each is consumed and leaves all else. -/
theorem runSteps_held {cs : List BusCycle} {s : State} (hloaded : s.loaded = true) (hphase : s.phase = .idle)
    (hoe : s.oe = false) (hout : s.out = .hiZ) (hinput : s.input = cs.map Event.cycle)
    (hhalted : ∀ c ∈ cs, c.halted = true) :
    runSteps cs.length s = .next { s with input := [], events := s.events + cs.length } := by
  induction cs generalizing s with
  | nil =>
    rw [List.map_nil] at hinput
    rw [← hinput]
    rfl
  | cons c cs ih =>
    obtain ⟨hc, hcs⟩ := List.forall_mem_cons.mp hhalted
    have hstep := step_held (presents_of_input hloaded hinput) hphase hc
    rw [shutState_of_undriven hoe hout, hinput, List.map_cons, List.tail_cons] at hstep
    have hrest := ih (s := { s with input := cs.map Event.cycle, events := s.events + 1 })
      hloaded hphase hoe hout rfl hcs
    rw [List.length_cons, runSteps_succ hstep, hrest, Nat.add_assoc, Nat.add_comm 1]

end Machine

/-- Settles O21: the gate holds every cycle of the run, since none takes the phase out of `Idle`. -/
theorem heldBlockKeepsItsState : Obligations.HeldBlockKeepsItsState := by
  unfold Obligations.HeldBlockKeepsItsState
  intro cs s hloaded hfault hphase hoe hout hinput hhalted
  exact ⟨fun c hc => (runCycle_held hfault hphase (hhalted c hc)).1,
    runSteps_held hloaded hphase hoe hout hinput hhalted⟩

/-! ## The phase -/

/-- Settles O25: a cycle stopped or held keeps the phase; one let through advances it, and in phase `Idle` was let
through because the halt line was released. -/
theorem phaseTransitionsAreTheLegalOnes : Obligations.PhaseTransitionsAreTheLegalOnes := by
  unfold Obligations.PhaseTransitionsAreTheLegalOnes
  intro s t c hpresents hstep
  cases hg : gateOpen s c with
  | false =>
    obtain rfl := step_unique (step_shut hpresents hg) hstep
    refine ⟨fun hfault => ?_, fun _ => rfl⟩
    obtain ⟨hphase, hhalted⟩ := ((gateOpen_eq_false_iff s c).mp hg).resolve_left (not_not.mpr hfault)
    exact .inl ⟨hphase, hhalted, hphase⟩
  | true =>
    obtain rfl := step_unique (step_open hpresents hg) hstep
    obtain ⟨hadvanced, -, -, -⟩ := openState_fields hg
    refine ⟨fun hfault => ?_, fun hfault => absurd (gateOpen_noFault hg) hfault⟩
    cases hphase : s.phase with
    | idle =>
      have hhalted : c.halted = false := by simpa [gateOpen, hfault, hphase] using hg
      exact .inr (.inl ⟨rfl, hhalted, by rw [hadvanced, hphase, phaseAfter]⟩)
    | armed => exact .inr (.inr (.inl ⟨rfl, by rw [hadvanced, hphase, phaseAfter]⟩))
    | running => exact .inr (.inr (.inr ⟨rfl, by rw [hadvanced, hphase, phaseAfter]⟩))

/-! ## The bank under `None`, and the history -/

/-- Settles O28: `None` has one bank and no history by the invariant, and under it no cycle qualifies. -/
theorem unswitchedSchemeStaysInBankZero : Obligations.UnswitchedSchemeStaysInBankZero := by
  unfold Obligations.UnswitchedSchemeStaysInBankZero
  intro s c h hconfigured hnone hpresents
  have hfe : s.scheme ≠ .fe := by simp [hnone]
  have hbank : s.bank = 0 := by
    have hlt := h.bankInRange hconfigured hfe
    rw [hnone] at hlt
    exact Nat.lt_one_iff.mp hlt
  have hq : qualifies s.params s.scheme c = false := by rw [hnone]; rfl
  obtain ⟨t, hstep, hbank', hhist'⟩ := step_of_not_qualifies hpresents hfe hq
  exact ⟨hbank, t, hstep, hbank'.trans hbank, hhist'.trans (h.historyFeOnly hconfigured hfe)⟩

/-- Settles O29: a cycle stopped or held writes neither, one let through writes what stage BANK gives. -/
theorem historyIsFedUnderFeOnly : Obligations.HistoryIsFedUnderFeOnly := by
  unfold Obligations.HistoryIsFedUnderFeOnly
  intro s c hpresents
  cases hg : gateOpen s c with
  | false =>
    exact ⟨_, step_shut hpresents hg, fun _ hopen => Bool.noConfusion hopen, fun _ _ => ⟨rfl, rfl⟩, fun _ => rfl⟩
  | true =>
    obtain ⟨-, hbank, hhist, -⟩ := openState_fields hg
    refine ⟨_, step_open hpresents hg, fun hs _ => ⟨hhist.trans (histAfter_of_fe hs c), ?_⟩,
      fun _ hshut => Bool.noConfusion hshut, fun hs => hhist.trans (histAfter_of_ne_fe hs c)⟩
    rw [hbank, hhist, bankAfter_of_fe hs]

/-- Settles O30: a bank below 8 has its bytes inside 32768, a bank from 8 on is refused by `byte_at`; without a served
read nothing is looked up. -/
theorem feServesOrFaultsByTheBankItSelects : Obligations.FeServesOrFaultsByTheBankItSelects := by
  unfold Obligations.FeServesOrFaultsByTheBankItSelects
  intro s c hpresents hopen hs hlen
  obtain ⟨-, hbank, -, hout⟩ := openState_fields hopen
  have hstep := step_open hpresents hopen
  refine ⟨openState c s, hstep, ?bank, fun hread hlt => ?serves, fun hread hge => ?raises, fun hread => ?undriven⟩
  case bank => rw [hbank, bankAfter_of_fe hs, histAfter_of_fe hs]
  case serves =>
    rw [hbank] at hlt ⊢
    have htag : tagMatchesLength s = true := by simp [tagMatchesLength, hs, hlen]
    have hlookup := lookupAfter_of_tagMatchesLength (by simp [hs]) htag (by rw [hs]; exact hlt)
    obtain ⟨t, ht, hdrive, -, hfault, -⟩ := step_serves_of_lookup_ok hpresents hopen hread hlookup
    obtain rfl := step_unique hstep ht
    exact ⟨hfault, hdrive⟩
  case raises =>
    rw [hbank] at hge
    have hlookup : lookupAfter s c = .error .outOfRange := byteAt_of_out (.inr (.inl (by rw [hs]; exact hge)))
    obtain ⟨t, ht, hhiZ, -, hfault, -⟩ := step_raises_of_lookup_error hpresents hopen hread hlookup
    obtain rfl := step_unique hstep ht
    exact ⟨hfault, hhiZ⟩
  case undriven =>
    exact ⟨(step_fault_of_not_readInWindow hpresents hread hstep).trans (gateOpen_noFault hopen),
      hout.trans (outputOf_of_not_readInWindow hread)⟩

namespace Machine

theorem step_phase_bank_hist {s : State} {c : BusCycle} (hpresents : Presents s c) (hopen : gateOpen s c = true) :
    ∃ t, step s = .next t ∧ t.phase = phaseAfter s.phase ∧ t.bank = bankAfter s c ∧ t.hist = histAfter s c := by
  obtain ⟨hphase, hbank, hhist, -⟩ := openState_fields hopen
  exact ⟨_, step_open hpresents hopen, hphase, hbank, hhist⟩

/-- `s` with another window. -/
def State.withWindow (s : State) (mask value : Address) : State :=
  { s with params := { s.params with windowMask := mask, windowMatch := value } }

theorem bankAfter_withWindow (s : State) (mask value : Address) (c : BusCycle) :
    bankAfter (s.withWindow mask value) c = bankAfter s c := rfl

end Machine

/-- Settles O32: stages GATE and BANK read the trigger directions and `FE_DEPTH` of the parameters, not the window. -/
theorem windowDoesNotAffectTheBank : Obligations.WindowDoesNotAffectTheBank := by
  unfold Obligations.WindowDoesNotAffectTheBank
  intro s c mask value hpresents
  change ∃ t u, _ ∧ step (s.withWindow mask value) = .next u ∧ _
  have hpresents' : Presents (s.withWindow mask value) c := hpresents
  have hgate : gateOpen (s.withWindow mask value) c = gateOpen s c := rfl
  cases hg : gateOpen s c with
  | false => exact ⟨_, _, step_shut hpresents hg, step_shut hpresents' (hgate.trans hg), rfl, rfl, rfl⟩
  | true =>
    obtain ⟨t, hstep, hphase, hbank, hhist⟩ := step_phase_bank_hist hpresents hg
    obtain ⟨u, hstep', hphase', hbank', hhist'⟩ := step_phase_bank_hist hpresents' (hgate.trans hg)
    exact ⟨t, u, hstep, hstep', hbank.trans (hbank'.trans (bankAfter_withWindow s mask value c)).symm,
      hhist.trans hhist'.symm, hphase.trans hphase'.symm⟩

namespace Machine

/-! ## With tag and length agreeing every lookup is valid (R117) -/

/-- R112: where tag and length agree, the image is the scheme's banks and nothing else. -/
theorem size_of_tagMatchesLength {s : State} (htag : tagMatchesLength s = true) :
    supportedSize s.len = true ∧ s.len = bankCount s.scheme * bankSize s.scheme s.len := by
  by_cases hs : s.scheme = .none
  · have hlen : s.len = 2048 ∨ s.len = 4096 := by simpa [tagMatchesLength, hs] using htag
    rw [hs]
    rcases hlen with hlen | hlen <;> rw [hlen] <;> decide
  · have hlen := len_of_tagMatchesLength hs htag
    rw [bankSize_of_ne_none hs]
    refine ⟨?_, hlen⟩
    rw [hlen]
    cases hs' : s.scheme
    case none => exact absurd hs' hs
    all_goals decide

theorem lookupAfter_ok_of_tagMatchesLength {s : State} {c : BusCycle} (htag : tagMatchesLength s = true)
    (hbank : bankAfter s c < bankCount s.scheme) : ∃ b, lookupAfter s c = .ok b := by
  obtain ⟨hsize, hlen⟩ := size_of_tagMatchesLength htag
  have hoffset := lookupOffset_lt_bankSize s.scheme hsize c.address
  have hindex : imageIndex s (bankAfter s c) (lookupOffset s.scheme s.len c.address) < s.len :=
    calc bankAfter s c * bankSize s.scheme s.len + lookupOffset s.scheme s.len c.address
      _ < bankAfter s c * bankSize s.scheme s.len + bankSize s.scheme s.len := Nat.add_lt_add_left hoffset _
      _ = (bankAfter s c + 1) * bankSize s.scheme s.len := (Nat.succ_mul _ _).symm
      _ ≤ bankCount s.scheme * bankSize s.scheme s.len := Nat.mul_le_mul_right _ hbank
      _ = s.len := hlen.symm
  exact ⟨_, byteAt_of_valid ⟨hoffset, hbank, hindex⟩⟩

theorem SameConfiguration.tagMatchesLength_eq {s t : State} (h : SameConfiguration s t) :
    tagMatchesLength t = tagMatchesLength s := by
  rw [tagMatchesLength, tagMatchesLength, h.scheme, h.len]

/-- The conditions under which no iteration faults: tag and length agree, `FE_SELECT` has no say, and the bank is one
of the scheme's. -/
structure FaultFree (s : State) : Prop where
  fault  : s.fault = .noFault
  scheme : s.scheme ≠ .fe
  tag    : tagMatchesLength s = true
  bank   : s.bank < bankCount s.scheme

/-- The bank stays one of the scheme's, so the conditions hold after every cycle let through. -/
theorem faultFree_openState {s : State} {c : BusCycle} (h : FaultFree s) (hopen : gateOpen s c = true) :
    FaultFree (openState c s) := by
  have hconf := openState_sameConfiguration hopen
  have hlt := bankAfter_lt h.scheme h.bank c
  obtain ⟨-, hbank, -, -⟩ := openState_fields hopen
  obtain ⟨b, hlookup⟩ := lookupAfter_ok_of_tagMatchesLength h.tag hlt
  have hfault : (openState c s).fault = .noFault := by
    rcases openState_cases c s with ⟨-, e⟩ | ⟨-, _, -, e⟩ | ⟨-, herror, -⟩
    · rw [e]; exact h.fault
    · rw [e]; exact h.fault
    · simp [hlookup] at herror
  exact ⟨hfault, hconf.scheme ▸ h.scheme, hconf.tagMatchesLength_eq.trans h.tag, by rwa [hbank, hconf.scheme]⟩

end Machine

/-- Settles O43: a cycle held writes neither `FAULT` nor the configuration; the invariant has the bank in range, so
that `FaultFree` outlasts a cycle let through. -/
theorem matchingImageNeverFaults : Obligations.MatchingImageNeverFaults := by
  unfold Obligations.MatchingImageNeverFaults
  intro s c hinv hpresents hfault hfe htag
  have hconfigured : configured s = true := by simp [configured_iff, hpresents.1, hfault]
  have h : FaultFree s := ⟨hfault, hfe, htag, hinv.bankInRange hconfigured hfe⟩
  cases hg : gateOpen s c with
  | false => exact ⟨_, step_shut hpresents hg, hfault, htag⟩
  | true =>
    have h' := faultFree_openState h hg
    exact ⟨_, step_open hpresents hg, h'.fault, h'.tag⟩

namespace Machine

/-! ## The bank over a run (R140) -/

/-- The first of the cycles decides the bank that the rest start from. -/
theorem bankOfLatest_cons (p : Params) (sch : Scheme) (start : Nat) (c : BusCycle) (cs : List BusCycle) :
    bankOfLatest p sch start (c :: cs) =
      bankOfLatest p sch (if qualifies p sch c then hotspotBank sch c else start) cs := by
  cases hq : qualifies p sch c with
  | false => simp [bankOfLatest, qualifyingCycles, hq]
  | true =>
    simp only [bankOfLatest, qualifyingCycles, List.filter_cons_of_pos hq, List.getLast?_cons, if_true]
    cases (cs.filter (qualifies p sch)).getLast? <;> rfl

/-- A block that is released and fault-free lets every cycle through and remains so. -/
theorem step_of_faultFree {s : State} {c : BusCycle} (h : FaultFree s) (hpresents : Presents s c)
    (hphase : s.phase ≠ .idle) :
    ∃ t, step s = .next t ∧ FaultFree t ∧ t.phase ≠ .idle ∧ t.input = s.input.tail ∧ SameConfiguration s t ∧
      t.bank = bankAfter s c := by
  have hopen : gateOpen s c = true := by
    rw [gateOpen_of_not_idle hphase, h.fault]
    rfl
  obtain ⟨hadvanced, hbank, -, -⟩ := openState_fields hopen
  obtain ⟨t, hstep, hinput, hconf⟩ := step_presents_next hpresents
  obtain rfl := step_unique (step_open hpresents hopen) hstep
  exact ⟨_, hstep, faultFree_openState h hopen, hadvanced ▸ phaseAfter_ne_idle _, hinput, hconf, hbank⟩

/-- By induction on the cycles, each of which leaves the bank that stage BANK gives. -/
theorem runSteps_of_faultFree {cs : List BusCycle} {s : State} (h : FaultFree s) (hloaded : s.loaded = true)
    (hphase : s.phase ≠ .idle) (hinput : s.input = cs.map Event.cycle) :
    ∃ t, runSteps cs.length s = .next t ∧ t.fault = .noFault ∧ t.bank = bankOfLatest s.params s.scheme s.bank cs := by
  induction cs generalizing s with
  | nil => exact ⟨s, rfl, h.fault, rfl⟩
  | cons c cs ih =>
    obtain ⟨u, hstep, hu, huphase, huinput, hconf, hubank⟩ :=
      step_of_faultFree h (presents_of_input hloaded hinput) hphase
    rw [hinput, List.map_cons, List.tail_cons] at huinput
    obtain ⟨t, hrun, hfault, hbank⟩ := ih hu (hconf.loaded.trans hloaded) huphase huinput
    refine ⟨t, (runSteps_succ hstep cs.length).trans hrun, hfault, ?_⟩
    rw [hbank, hconf.params, hconf.scheme, hubank, bankAfter_of_ne_fe h.scheme, bankOfLatest_cons]

end Machine

/-- Settles O31: a block with tag and length agreeing is fault-free under F8, F6 and F4, and its run leaves the bank of
the latest qualifying cycle. -/
theorem bankIsThatOfTheLatestQualifyingCycle : Obligations.BankIsThatOfTheLatestQualifyingCycle := by
  unfold Obligations.BankIsThatOfTheLatestQualifyingCycle
  intro cs s hloaded hfault hphase hscheme htag hbank hinput
  have hfe : s.scheme ≠ .fe := by rcases hscheme with hs | hs | hs <;> simp [hs]
  exact runSteps_of_faultFree ⟨hfault, hfe, htag, hbank⟩ hloaded hphase hinput

end Sys2Proof

/-! PROOFS. What a cycle reads and what its fault leaves: repetition (spec/20_memory.md section 2), the other banks
(spec/20_memory.md section 4), the precise fault (spec/60_exceptions.md), and the two ways into a fresh configuration,
power cycle and load (spec/70_reset_and_hazards.md section 1, spec/40_image_store.md section 1). -/

namespace Sys2Proof

open Sys2Proof.Machine

namespace Machine

/-! ## The served read, by what the lookup answers -/

theorem openState_of_lookup_ok {s : State} {c : BusCycle} {b : Byte} (hread : readInWindow s c = true)
    (hlookup : lookupAfter s c = .ok b) :
    openState c s = { s with
      phase := phaseAfter s.phase, bank := bankAfter s c, hist := histAfter s c, oe := false, dout := b
      out := .drive b, input := s.input.tail, events := s.events + 1 } := by
  rcases openState_cases c s with ⟨hr, -⟩ | ⟨-, b', hb', e⟩ | ⟨-, herror, -⟩
  · simp [hread] at hr
  · obtain rfl : b' = b := by simpa [hlookup] using hb'.symm
    exact e
  · simp [hlookup] at herror

theorem openState_of_lookup_error {s : State} {c : BusCycle} {k : FaultKind} (hread : readInWindow s c = true)
    (hlookup : lookupAfter s c = .error k) :
    openState c s = { s with
      phase := phaseAfter s.phase, bank := bankAfter s c, hist := histAfter s c, oe := false, fault := .outOfRange
      out := .hiZ, input := s.input.tail, events := s.events + 1 } := by
  rcases openState_cases c s with ⟨hr, -⟩ | ⟨-, b, hok, -⟩ | ⟨-, -, e⟩
  · simp [hread] at hr
  · simp [hlookup] at hok
  · exact e

end Machine

/-! ## The fault of an iteration -/

/-- Settles O42: the gate lets the cycle through, so the state is the one `openState_of_lookup_error` gives. -/
theorem outOfRangeIsPrecise : Obligations.OutOfRangeIsPrecise := by
  unfold Obligations.OutOfRangeIsPrecise
  intro s c k hpresents hopen hread hlookup
  rw [step_open hpresents hopen, openState_of_lookup_error hread hlookup]

/-- Settles O44: of the outcomes of an iteration only the failed lookup writes `FAULT`. -/
theorem iterationRaisesOnlyOutOfRange : Obligations.IterationRaisesOnlyOutOfRange := by
  unfold Obligations.IterationRaisesOnlyOutOfRange
  intro s t c hpresents hstep hchanged
  cases hg : gateOpen s c with
  | false =>
    obtain rfl := step_unique (step_shut hpresents hg) hstep
    exact absurd rfl hchanged
  | true =>
    obtain rfl := step_unique (step_open hpresents hg) hstep
    rcases openState_cases c s with ⟨-, e⟩ | ⟨-, b, -, e⟩ | ⟨hread, hlookup, e⟩ <;> rw [e] at hchanged ⊢
    · exact absurd rfl hchanged
    · exact absurd rfl hchanged
    · exact ⟨gateOpen_noFault hg, rfl, hread, rfl, hlookup⟩

namespace Machine

/-! ## A cycle repeated (R56) -/

/-- Once a cycle's phase, bank, history and drive are those the block already holds, the cycle changes nothing more. -/
theorem openState_of_settled {s : State} {c : BusCycle} (hphase : phaseAfter s.phase = s.phase)
    (hbank : bankAfter s c = s.bank) (hhist : histAfter s c = s.hist) (hoe : s.oe = false)
    (hdata : (readInWindow s c = false ∧ s.out = .hiZ) ∨
      (readInWindow s c = true ∧ lookupAfter s c = .ok s.dout ∧ s.out = .drive s.dout)) :
    openState c s = { s with input := s.input.tail, events := s.events + 1 } := by
  rcases hdata with ⟨hread, hout⟩ | ⟨hread, hlookup, hout⟩
  · rw [openState_of_not_readInWindow hread, hphase, hbank, hhist, ← hoe, ← hout]
  · rw [openState_of_lookup_ok hread hlookup, hphase, hbank, hhist, ← hoe, ← hout]

/-- But under `FE` the bank that a cycle selects depends on the cycle or is the one before, so selecting it again
changes nothing. -/
theorem bankAfter_idem {s t : State} {c : BusCycle} (hfe : s.scheme ≠ .fe) (hconf : SameConfiguration s t)
    (hbank : t.bank = bankAfter s c) : bankAfter t c = bankAfter s c := by
  have hfe' : t.scheme ≠ .fe := hconf.scheme ▸ hfe
  cases hq : qualifies s.params s.scheme c with
  | true =>
    have hq' : qualifies t.params t.scheme c = true := by rwa [hconf.params, hconf.scheme]
    rw [bankAfter_of_qualifies hq', bankAfter_of_qualifies hq, hconf.scheme]
  | false =>
    have hq' : qualifies t.params t.scheme c = false := by rwa [hconf.params, hconf.scheme]
    rw [bankAfter_of_not_qualifies hfe' hq', hbank]

theorem lookupAfter_congr {s t : State} {c : BusCycle} (hconf : SameConfiguration s t)
    (hbank : bankAfter t c = bankAfter s c) : lookupAfter t c = lookupAfter s c := by
  rw [lookupAfter, lookupAfter, hbank, hconf.scheme, hconf.len, hconf.byteAt_eq]

theorem SameConfiguration.readInWindow_eq {s t : State} (h : SameConfiguration s t) (c : BusCycle) :
    readInWindow t c = readInWindow s c := by
  rw [readInWindow, readInWindow, h.params]

/-- A running block that a cycle has not faulted answers the same cycle by the state it is in. -/
theorem openState_openState {s : State} {c : BusCycle} (hopen : gateOpen s c = true) (hphase : s.phase = .running)
    (hfe : s.scheme ≠ .fe) (hfault : (openState c s).fault = .noFault) :
    openState c (openState c s) =
      { openState c s with input := (openState c s).input.tail, events := (openState c s).events + 1 } := by
  have hconf := openState_sameConfiguration hopen
  obtain ⟨hphase', hbank, hhist, -⟩ := openState_fields hopen
  obtain ⟨hoe, -, -⟩ := openState_driver c s
  have hbank' := bankAfter_idem hfe hconf hbank
  have hlookup := lookupAfter_congr hconf hbank'
  have hread := hconf.readInWindow_eq c
  refine openState_of_settled (by rw [hphase', hphase]; rfl) (hbank'.trans hbank.symm)
    (histAfter_of_ne_fe (hconf.scheme ▸ hfe) c) hoe ?_
  rcases openState_cases c s with ⟨hr, e⟩ | ⟨hr, b, hb, e⟩ | ⟨-, -, e⟩
  · exact .inl ⟨hread.trans hr, by rw [e]⟩
  · exact .inr ⟨hread.trans hr, by rw [hlookup, hb, e], by rw [e]⟩
  · simp [e] at hfault

end Machine

/-- Settles O38: a stopped block stays as it is, one that the first cycle stops is stopped for the second, and one that
serves the first is settled for the second. -/
theorem repeatedCycleChangesNothing : Obligations.RepeatedCycleChangesNothing := by
  unfold Obligations.RepeatedCycleChangesNothing
  intro s t c hpresents hphase hfe hstep hagain
  cases hg : gateOpen s c with
  | false =>
    obtain rfl := step_unique (step_shut hpresents hg) hstep
    rw [step_shut hagain hg, shutState_of_undriven rfl rfl]
  | true =>
    obtain rfl := step_unique (step_open hpresents hg) hstep
    obtain ⟨hphase', -, -, -⟩ := openState_fields hg
    obtain ⟨hoe, -, -⟩ := openState_driver c s
    have hnone := gateOpen_noFault hg
    by_cases hfault : (openState c s).fault = .noFault
    · have hg' : gateOpen (openState c s) c = true := by
        rw [gateOpen_of_not_idle (hphase' ▸ phaseAfter_ne_idle s.phase), hfault]
        rfl
      rw [step_open hagain hg', openState_openState hg hphase hfe hfault]
    · have hout' : (openState c s).out = .hiZ := by
        rcases openState_cases c s with ⟨-, e⟩ | ⟨-, b, -, e⟩ | ⟨-, -, e⟩
        · rw [e]
        · exact absurd (by rw [e]; exact hnone) hfault
        · rw [e]
      rw [step_stopped hagain hfault, shutState_of_undriven hoe hout']

namespace Machine

/-! ## The bytes of the other banks -/

/-- `s` with another image. -/
def State.withImage (s : State) (m : Memory) : State :=
  { s with image := m }

/-- A lookup reads no position outside the bank it is asked for. -/
theorem byteAt_withImage {s : State} {m : Memory} {bank : Nat}
    (h : ∀ offset, offset < bankSize s.scheme s.len →
      m.read (bank * bankSize s.scheme s.len + offset) = s.image.read (bank * bankSize s.scheme s.len + offset))
    (offset : Nat) : byteAt (s.withImage m) bank offset = byteAt s bank offset := by
  rcases byteAt_cases s bank offset with ⟨hoffset, hbank, hindex, hok⟩ | ⟨hout, herror⟩
  · rw [hok, byteAt_of_valid (s := s.withImage m) ⟨hoffset, hbank, hindex⟩]
    exact congrArg Except.ok (h offset hoffset)
  · rw [herror, byteAt_of_out (s := s.withImage m) hout]

/-- An iteration reads the image by its lookup alone. -/
theorem openState_withImage {s : State} {c : BusCycle} {m : Memory}
    (hlookup : lookupAfter (s.withImage m) c = lookupAfter s c) :
    openState c (s.withImage m) = (openState c s).withImage m := by
  rcases openState_cases c s with ⟨hread, e⟩ | ⟨hread, b, hb, e⟩ | ⟨hread, hb, e⟩ <;> rw [e]
  · exact openState_of_not_readInWindow hread
  · exact openState_of_lookup_ok hread (hlookup.trans hb)
  · exact openState_of_lookup_error hread (hlookup.trans hb)

end Machine

/-- Settles O41: the iteration's one lookup is in the bank that stage BANK leaves, where the images agree. -/
theorem otherBanksDoNotAffectTheOutput : Obligations.OtherBanksDoNotAffectTheOutput := by
  unfold Obligations.OtherBanksDoNotAffectTheOutput
  intro s c m hpresents hagree
  change ∃ t u, step s = .next t ∧ step (s.withImage m) = .next u ∧ u = t.withImage m
  have hpresents' : Presents (s.withImage m) c := hpresents
  have hgate : gateOpen (s.withImage m) c = gateOpen s c := rfl
  cases hg : gateOpen s c with
  | false => exact ⟨_, _, step_shut hpresents hg, step_shut hpresents' (hgate.trans hg), rfl⟩
  | true =>
    have hlookup : lookupAfter (s.withImage m) c = lookupAfter s c := byteAt_withImage hagree _
    exact ⟨_, _, step_open hpresents hg, step_open hpresents' (hgate.trans hg), openState_withImage hlookup⟩

namespace Machine

/-! ## The power cycle and the load -/

/-- Once a loaded block is out of `Idle`, only a power cycle brings it back. -/
theorem powersOff_of_step_idle {s t : State} (hloaded : s.loaded = true) (hstep : step s = .next t)
    (hphase : s.phase ≠ .idle) (hidle : t.phase = .idle) : PowersOff s := by
  rcases step_kinds s with hunloaded | ⟨c, hpresents⟩ | hpower
  · simp [hloaded] at hunloaded
  · cases hg : gateOpen s c with
    | false =>
      obtain rfl := step_unique (step_shut hpresents hg) hstep
      exact absurd hidle hphase
    | true =>
      obtain rfl := step_unique (step_open hpresents hg) hstep
      obtain ⟨hadvanced, -, -, -⟩ := openState_fields hg
      exact absurd (hadvanced ▸ hidle) (phaseAfter_ne_idle s.phase)
  · exact hpower

end Machine

/-- Settles O45: a power cycle is `State.powerOn` with the artifact and the parameters kept; any other step of a loaded
block keeps a fault, and no iteration ends in `Idle` that did not begin there. -/
theorem onlyAPowerCycleResets : Obligations.OnlyAPowerCycleResets := by
  unfold Obligations.OnlyAPowerCycleResets
  refine ⟨fun s hpower => ⟨_, step_powersOff hpower, rfl, rfl, rfl, rfl, rfl, rfl, rfl, rfl⟩,
    fun s t hloaded hstep hreset => ?_⟩
  rcases hreset with ⟨hfault, hcleared⟩ | ⟨hphase, hidle⟩
  · rcases step_fault_cases hloaded hstep with hkept | ⟨hnone, -⟩ | ⟨hpower, -⟩
    · exact absurd (hkept ▸ hcleared) hfault
    · exact absurd hnone hfault
    · exact hpower
  · exact powersOff_of_step_idle hloaded hstep hphase hidle

namespace Machine

/-- The lengths that decide a scheme, each with its own (R113). -/
theorem inferScheme_of_mem {n : Nat} {sch : Scheme}
    (h : (n, sch) ∈ [(2048, Scheme.none), (4096, .none), (8192, .f8), (16384, .f6)]) :
    inferScheme n = some sch := by
  simp only [List.mem_cons, List.not_mem_nil, or_false, Prod.mk.injEq] at h
  rcases h with ⟨rfl, rfl⟩ | ⟨rfl, rfl⟩ | ⟨rfl, rfl⟩ | ⟨rfl, rfl⟩ <;> rfl

/-- A supported length with a tag, or one that decides a scheme, is loaded under that scheme. -/
theorem load_ok {a : Artifact} {sch : Scheme} (hsize : supportedSize a.bytes.length = true)
    (hscheme : a.tag = some sch ∨ (a.tag = none ∧ inferScheme a.bytes.length = some sch)) :
    load a = .ok { image := Memory.ofBytes a.bytes, len := a.bytes.length, scheme := sch } := by
  rcases hscheme with htag | ⟨htag, hinfer⟩
  · simp [load, hsize, htag]
  · simp [load, hsize, htag, hinfer]

end Machine

/-- Settles O47: the load answers the image, the length and the scheme, and `establish` writes them and the reset bank. -/
theorem loadEstablishesTheConfiguration : Obligations.LoadEstablishesTheConfiguration := by
  unfold Obligations.LoadEstablishesTheConfiguration
  intro s sch hloaded hlen hscheme
  have hsize : supportedSize s.persisted.bytes.length = true := by
    simpa [supportedSize_iff] using hlen
  have hload := load_ok hsize (hscheme.imp_right (And.imp_right inferScheme_of_mem))
  rw [step_unloaded hloaded, bootLoad_ok hload]
  rfl

end Sys2Proof
